-- ==== Sys2Proof/Word.lean ====
section
/-! DEFINITION. The values the register space and the cipher port carry: bytes, 16-bit offsets, 16-byte blocks, 32-byte
slots (`00_scope.md` R11, R12). A field of the spec is a byte string, index 0 the most significant octet; its width is in its type. -/

namespace Sys2Proof

/-- A byte (octet): bit 7 the most significant, bit 0 the least (R11). -/
abbrev Byte := BitVec 8

/-- A register offset, `0x0000 .. 0xFFFF` (`20_memory.md` R60). -/
abbrev Offset := BitVec 16

/-- A byte string of exactly `n` bytes; index 0 is the most significant octet (R11). -/
abbrev Bytes (n : Nat) := Vector Byte n

/-- A block: a byte string of exactly 16 bytes (R11). -/
abbrev Block := Bytes 16

/-- `0x00` repeated: the value of cleared storage. -/
def zeroBytes (n : Nat) : Bytes n := Vector.replicate n 0

/-- `ZERO16`, the 16-byte zero block (`10_state.md` R35). -/
def ZERO16 : Block := zeroBytes 16

/-- `0^n` is `0x00` at every index (R12). -/
@[simp] theorem zeroBytes_getElem (n i : Nat) (h : i < n) : (zeroBytes n)[i] = 0 := by
  simp [zeroBytes]

/-- `ZERO16` is `0x00` at every index (R35). -/
@[simp] theorem ZERO16_getElem (i : Nat) (h : i < 16) : ZERO16[i] = 0 := by
  simp [ZERO16]

end Sys2Proof
end

