-- ==== Sys2Proof/Config.lean ====
section
/-! DEFINITION. The parameters of `00_scope.md` R9: what the implementation or the outside collaborator fixes. The spec leaves
every one of them OPEN, so each is an opaque constant: nothing can be proved about its value beyond its type. -/

namespace Sys2Proof

/-- How the cipher collaborator meets one request (`40_command_lifecycle.md` R125, R133). -/
inductive Reply where
  /-- `ok(E(key, block))` (R125). -/
  | ok
  /-- `fail` (R125): the command ends with `EncryptionFailure`. -/
  | fail
  /-- No answer yet (R133): the request stays in flight and the engine stays BUSY. -/
  | silent
  deriving DecidableEq, Repr, Inhabited

namespace Config

/-- `BLOCK_CIPHER`, written `E`: the function the external collaborator computes (R9, R125; `93_implementation_defined.md` U1).
No property of it but being a function of key and block can be used. -/
opaque blockCipher : Block → Block → Block

/-- `CIPHER_FAILS` (R9; U2) and the collaborator's answering at all (U11): the free draw for each request, one fresh index a draw. -/
opaque cipherReply : Nat → Reply

/-- `SALT` (R9; U13), the CMAC key of the first step of `f5`. -/
opaque salt : Block

/-- How far `MSG_MAX` lies above its least value 64 (R9). -/
opaque msgMaxAbove64 : Fin 61377

/-- `MSG_MAX`, the capacity of the message buffer in bytes (R9; `10_state.md` R23). -/
def msgMax : Nat := 64 + msgMaxAbove64.val

/-- `64 <= MSG_MAX` (R9). -/
theorem msgMax_ge : 64 ≤ msgMax := by unfold msgMax; omega

/-- `MSG_MAX <= 61440` (R9), so that the buffer ends inside the 16-bit offset range (`20_memory.md` R61). -/
theorem msgMax_le : msgMax ≤ 61440 := by unfold msgMax; omega

/-- The default the spec gives for `SALT` (R9, `44_smp_deriv.md` R221), byte by byte. `Config.salt` is not fixed to it. -/
def defaultSalt : Block :=
  #v[0x6C, 0x88, 0x83, 0x91, 0xAA, 0xF5, 0xA5, 0x38, 0x60, 0x37, 0x0B, 0xDB, 0x5A, 0x60, 0x83, 0xBE]

end Config
end Sys2Proof
end

