-- ==== Sys2Proof/Syntax.lean ====
section
/-! DEFINITION. The ten commands of `30_encoding.md` R91, one constructor per row of the opcode table. The one format `CMD8`
has no field beside the opcode (R90), so no constructor has an argument: a command names its operands by the fixed slot
assignment of R93 (`Machine/Operands.lean`). -/

namespace Sys2Proof

/-- A command (R91). -/
inductive Instr where
  /-- `SUBKEYS`, opcode `0x01` (R174). -/
  | subkeys
  /-- `CMAC`, opcode `0x02` (R175). -/
  | cmac
  /-- `AH`, opcode `0x10` (R191). -/
  | ah
  /-- `C1`, opcode `0x11` (R192). -/
  | c1
  /-- `S1`, opcode `0x12` (R193). -/
  | s1
  /-- `G2`, opcode `0x13` (R194). -/
  | g2
  /-- `F4`, opcode `0x20` (R220). -/
  | f4
  /-- `F5`, opcode `0x21` (R222). -/
  | f5
  /-- `F6`, opcode `0x22` (R223). -/
  | f6
  /-- `H6`, opcode `0x23` (R224). -/
  | h6
  deriving DecidableEq, Repr

end Sys2Proof
end

