-- ==== Sys2Proof/Decode.lean ====
section
/-! DEFINITION. The command encoding of `30_encoding.md` R90 to R92: the decoder, total on bytes and rejecting by name, and the
encoder, both read from the opcode map of R91. -/

namespace Sys2Proof

/-- Why bytes are no command. -/
inductive DecodeReject where
  /-- One of the 246 reserved opcodes of R92. -/
  | reservedOpcode (opcode : Byte)
  /-- There is no byte: a command is exactly one byte (R90). -/
  | noByte
  deriving DecidableEq, Repr

/-- The command a byte written to `CMD` selects. The match is on all eight bits (R91); every other value is reserved (R92). -/
def decodeByte (b : Byte) : Except DecodeReject Instr :=
  if b = 0x01 then .ok .subkeys
  else if b = 0x02 then .ok .cmac
  else if b = 0x10 then .ok .ah
  else if b = 0x11 then .ok .c1
  else if b = 0x12 then .ok .s1
  else if b = 0x13 then .ok .g2
  else if b = 0x20 then .ok .f4
  else if b = 0x21 then .ok .f5
  else if b = 0x22 then .ok .f6
  else if b = 0x23 then .ok .h6
  else .error (.reservedOpcode b)

/-- Decode the first command of a byte list and give back the bytes after it (R90: every command is one byte long). -/
def decode : List Byte → Except DecodeReject (Instr × List Byte)
  | [] => .error .noByte
  | b :: rest =>
    match decodeByte b with
    | .ok i => .ok (i, rest)
    | .error r => .error r

/-- The opcode of a command (R91, written from its binary column). -/
def opcode : Instr → Byte
  | .subkeys => 0b00000001
  | .cmac => 0b00000010
  | .ah => 0b00010000
  | .c1 => 0b00010001
  | .s1 => 0b00010010
  | .g2 => 0b00010011
  | .f4 => 0b00100000
  | .f5 => 0b00100001
  | .f6 => 0b00100010
  | .h6 => 0b00100011

/-- The words of a command: its one byte (R90). -/
def encode (i : Instr) : List Byte := [opcode i]

/-- The bytes of a table word, bit 0 the least significant bit of the first byte; at least one byte. -/
def tableBytes (nbits w : Nat) : List Byte :=
  (List.range (max 1 (nbits / 8))).map fun j => BitVec.ofNat 8 (w / 256 ^ j)

/-- The command the decoder reads from a word of the opcode table. -/
def decodeTableWord (nbits w : Nat) : Option Instr :=
  match decode (tableBytes nbits w) with
  | .ok (i, _) => some i
  | .error _ => none

end Sys2Proof
end

