-- ==== Sys2Proof/Machine/Script.lean ====
section
/-! DEFINITION. The host agent's language: the bus transactions and polling loops of the host-script notation, and the expansions
of its pseudo-instructions (`30_encoding.md` R96, R97). -/

namespace Sys2Proof.Machine

/-- One thing the host does to the block. `wr` and `rd` are the two bus transactions (R96); `wait` and `readres` are the two
pseudo-instructions of R97 whose transactions depend on what the host reads. -/
inductive HostStmt where
  /-- `WR off, v`: `RegWrite(off, v)`. -/
  | wr (off : Offset) (v : Byte)
  /-- `RD off`: `RegRead(off)`. -/
  | rd (off : Offset)
  /-- `WAIT`: repeat `RD 0x0001` until bit 0 of the byte read is 0. -/
  | wait
  /-- `READRES`: `RD 0x0003 -> n`, then `RD 0x0020+i` for i = 0..n-1. -/
  | readres
  /-- An access of `more + 2` bytes at once: wider than one byte, so no transaction of this block (`20_memory.md` R66). -/
  | wide (off : Offset) (more : Nat)
  deriving DecidableEq, Repr

/-- How many bytes a statement accesses at once; `WAIT` and `READRES` are made of one-byte reads (`20_memory.md` R65, R66). -/
def HostStmt.width : HostStmt → Nat
  | .wr _ _ => 1
  | .rd _ => 1
  | .wait => 1
  | .readres => 1
  | .wide _ more => more + 2

/-- The pseudo-instructions of R97 (`EXPECT` makes no transaction and has no constructor). -/
inductive Pseudo where
  /-- `LOAD Sn, <hex>`. -/
  | load (n : Fin 8) (data : List Byte)
  /-- `LOADLEN Sn, <len>, <hex>`. -/
  | loadlen (n : Fin 8) (len : Byte) (data : List Byte)
  /-- `LOADMSG <hex>`. -/
  | loadmsg (data : List Byte)
  /-- `GO <mnemonic>`. -/
  | go (i : Instr)
  /-- `GO <byte>`. -/
  | goByte (b : Byte)
  /-- `WAIT`. -/
  | wait
  /-- `READRES`. -/
  | readres
  deriving DecidableEq, Repr

/-- `WR base+i, b_i` for every byte of `data`, in index order (R97). -/
def writesFrom (base : Nat) (data : List Byte) : List HostStmt :=
  data.mapIdx fun i b => .wr (BitVec.ofNat 16 (base + i)) b

/-- `RD 0x0020+i` for i = 0..n-1 (R97, `READRES`). -/
def resultReads (n : Byte) : List HostStmt :=
  (List.range n.toNat).map fun i => .rd (BitVec.ofNat 16 (0x0020 + i))

/-- The expansion of a pseudo-instruction (R97). -/
def Pseudo.expand : Pseudo → List HostStmt
  | .load n data =>
    .wr (BitVec.ofNat 16 (0x0008 + n.val)) (BitVec.ofNat 8 data.length) :: writesFrom (0x0100 + 32 * n.val) data
  | .loadlen n len data => .wr (BitVec.ofNat 16 (0x0008 + n.val)) len :: writesFrom (0x0100 + 32 * n.val) data
  | .loadmsg data =>
    .wr 0x0004 (BitVec.ofNat 8 (data.length / 256)) :: .wr 0x0005 (BitVec.ofNat 8 (data.length % 256))
      :: writesFrom 0x1000 data
  | .go i => [.wr 0x0000 (opcode i)]
  | .goByte b => [.wr 0x0000 b]
  | .wait => [.wait]
  | .readres => [.readres]

/-- A host script: its lines expanded in order (R96). -/
def expandScript (lines : List Pseudo) : List HostStmt := lines.flatMap Pseudo.expand

end Sys2Proof.Machine
end

