-- ==== Sys2Proof/Machine/State.lean ====
section
/-! DEFINITION. The state of one `cmac_engine` instance (`10_state.md` R20) together with the two outside agents of
`00_scope.md` R10, the host and the cipher collaborator, and the order in which they take their turns (`20_memory.md` R70). -/

namespace Sys2Proof.Machine

/-- The four phases of R26. -/
inductive Phase where
  | idle | busy | done | error
  deriving DecidableEq, Repr, Inhabited

/-- The three errors of `60_exceptions.md` R250. An error is the outcome of a command, never a stop of the machine. -/
inductive CmdError where
  | lengthError | encryptionFailure | illegalCommand
  deriving DecidableEq, Repr

/-- The message buffer's bytes as (index, byte) pairs, indices rising, no byte `0x00` listed. -/
abbrev Memory := List Host.Cell

/-- What an unlisted byte of the message buffer reads as: its reset value and its value after every completion (R36, R128). -/
def Memory.unlisted : Byte := 0x00

/-- One cipher request as the collaborator sees it (`40_command_lifecycle.md` R124). -/
structure Request where
  key : Block
  block : Block
  deriving DecidableEq, Repr

/-- Whose turn it is in the total order of `20_memory.md` R70. -/
inductive Turn where
  /-- The host executes the next statement of its script. -/
  | host
  /-- The engine moves: a command that is BUSY runs on, as far as the collaborator's replies let it. -/
  | engine
  /-- The reset event (`70_reset_and_hazards.md` R280). -/
  | reset
  /-- A cipher reply arrives for a request that a reset abandoned (R281). -/
  | strayReply
  deriving DecidableEq, Repr

/-- The machine. The first nine fields are R20's, the engine's architectural state; the rest are the model's own: the cipher
port and the collaborator (`answered` to `drawn`), the host (`script`, `readLog`) and the order of turns (`schedule`). -/
structure State where
  /-- `S[n][j]`, the operand slots (R21). -/
  slots : Vector (Bytes 32) 8
  /-- `SLEN[n]`, the declared lengths (R22). -/
  slen : Vector Byte 8
  /-- `MSG[j]`, the message buffer (R23). -/
  msg : Memory
  /-- `MSG_LEN` (R24). -/
  msgLen : BitVec 16
  /-- `phase` (R26). -/
  phase : Phase
  /-- `ERRCODE` (R28). -/
  errcode : Byte
  /-- `RESLEN` (R29). -/
  reslen : Byte
  /-- `RESULT[j]` (R30). -/
  result : Bytes 32
  /-- `op`, the latched opcode, meaningful only in BUSY (R31). -/
  op : Byte
  /-- How many requests of the command in BUSY the collaborator has answered `ok` (R32). -/
  answered : Nat
  /-- The requests issued for the last accepted command, in issue order (R131, the collaborator's view); while BUSY the one
  after the first `answered` is in flight. -/
  requests : List Request
  /-- The collaborator's coming replies, first to come first (R125); after them the draws are free. -/
  replies : List Reply
  /-- How many replies have been drawn: the index of the next free draw. -/
  drawn : Nat
  /-- What the host has still to do, in program order (R70, R96). -/
  script : List HostStmt
  /-- What the host has read, oldest first: offset and byte (R121). -/
  readLog : List (Offset × Byte)
  /-- Whose turns come next (R70). -/
  schedule : List Turn
  deriving DecidableEq, Repr

/-- Why the machine stops with a fault: never. The engine has no bus error (`20_memory.md` R68; `40_command_lifecycle.md` R120,
"Raises nothing"), and its errors are outcomes of a command (`60_exceptions.md` R250), so there is no constructor. -/
inductive Fault where
  deriving DecidableEq, Repr

/-- Why a step has no meaning. -/
inductive Refusal where
  /-- Raised by `exec` for an instruction that has no meaning yet; no arm does so now. Safe. -/
  | notModelled (mnemonic : String)
  /-- Raised by the host's turn on an access that is not one byte wide: "a model refuses one (it is not a transaction of this
  block)" (`20_memory.md` R66; U14). Safe: nothing is said about it. -/
  | wideAccess
  deriving DecidableEq, Repr

/-- The state right after reset (R36), the host's script empty and no turn appointed. -/
def State.reset : State where
  slots := Vector.replicate 8 (zeroBytes 32)
  slen := zeroBytes 8
  msg := []
  msgLen := 0
  phase := .idle
  errcode := 0x00
  reslen := 0x00
  result := zeroBytes 32
  op := 0x00
  answered := 0
  requests := []
  replies := []
  drawn := 0
  script := []
  readLog := []
  schedule := []

end Sys2Proof.Machine
end

