-- ==== Sys2Proof/Machine/AddressMap.lean ====
section
/-! DEFINITION. The map of the host register space (`20_memory.md` R61): which register an offset reaches. -/

namespace Sys2Proof.Machine

/-- What an offset reaches (R61). -/
inductive Reg where
  | cmd
  | status
  | errcode
  | reslen
  | msgLenHi
  | msgLenLo
  | slen (n : Fin 8)
  | result (j : Fin 32)
  | slot (n : Fin 8) (j : Fin 32)
  | msg (j : Nat)
  | reserved
  deriving DecidableEq, Repr

/-- The register at an offset (R61). -/
def regAt (off : Offset) : Reg :=
  let a := off.toNat
  if a = 0x0000 then .cmd
  else if a = 0x0001 then .status
  else if a = 0x0002 then .errcode
  else if a = 0x0003 then .reslen
  else if a = 0x0004 then .msgLenHi
  else if a = 0x0005 then .msgLenLo
  else if h : 0x0008 ≤ a ∧ a ≤ 0x000F then .slen ⟨a - 0x0008, by omega⟩
  else if h : 0x0020 ≤ a ∧ a ≤ 0x003F then .result ⟨a - 0x0020, by omega⟩
  else if h : 0x0100 ≤ a ∧ a ≤ 0x01FF then
    .slot ⟨(a - 0x0100) / 32, by omega⟩ ⟨(a - 0x0100) % 32, by omega⟩
  else if 0x1000 ≤ a ∧ a < 0x1000 + Config.msgMax then .msg (a - 0x1000)
  else .reserved

end Sys2Proof.Machine
end

