-- ==== Sys2Proof/Machine/ByteOps.lean ====
section
/-! DEFINITION. ByteOps, the datapath primitives (`41_byteops.md`). Widths stand in the types, so an operand of another width
cannot be written (R156; `93_implementation_defined.md` U3, U4). -/

namespace Sys2Proof.Machine

/-- `Rb` (`42_cmac.md` R170): only byte 15 is non-zero. -/
def Rb : Block := #v[0, 0, 0, 0, 0, 0, 0, 0, 0, 0, 0, 0, 0, 0, 0, 0x87]

/-- `xor16` (R150). -/
def xor16 (a b : Block) : Block := Vector.ofFn fun i => a[i] ^^^ b[i]

/-- `shiftLeftOneBit` (R151), the byte-at-a-time carry chain. -/
def shiftLeftOneBit (b : Block) : Block :=
  Vector.ofFn fun i =>
    if h : i.val < 15 then (b[i] <<< 1) ||| (b[i.val + 1] >>> 7) else b[i] <<< 1

/-- `dbl` (R155): the test is on the operand before the shift. -/
def dbl (b : Block) : Block :=
  if b[0].getLsbD 7 then xor16 (shiftLeftOneBit b) Rb else shiftLeftOneBit b

/-- `pad` (R152), on its precondition only (U3). -/
def pad (lastBlock : List Byte) (actualLength : Nat)
    (h : actualLength ≤ 16 ∧ actualLength ≤ lastBlock.length) : Block :=
  Vector.ofFn fun i =>
    if hi : i.val < actualLength then lastBlock[i.val]'(by omega)
    else if i.val = actualLength then 0x80
    else 0x00

/-- `low(B, 8k)` (R154): the last `k` bytes of a block, in order. -/
def low (b : Block) (k : Nat) (h : k ≤ 16) : Bytes k :=
  Vector.ofFn fun i => b[16 - k + i.val]'(by omega)

/-- The block whose bytes are the 16 of a concatenation (R153; the lengths sum to 16, R156). -/
def toBlock (bytes : List Byte) (h : bytes.length = 16) : Block := Vector.ofFn fun i => bytes[i.val]

/-- `zext_8` (`00_scope.md` R12). -/
def zext8 (bit : Bool) : Byte := if bit then 0x01 else 0x00

end Sys2Proof.Machine
end

