-- ==== Sys2Proof/Machine/Flags.lean ====
section
/-! DEFINITION. The status flags (`10_state.md` R26), the error codes (R28) and the one-bit operands of `C1` (`30_encoding.md` R94). -/

namespace Sys2Proof.Machine

/-- The `STATUS` byte of a phase (R26); bits 7:3 read 0. -/
def statusByte : Phase → Byte
  | .idle => 0x00
  | .busy => 0x01
  | .done => 0x02
  | .error => 0x04

/-- The `BUSY` bit of a `STATUS` byte, the one `WAIT` tests (R26; `30_encoding.md` R97). -/
def busyBit (status : Byte) : Bool := status.getLsbD 0

/-- The `ERRCODE` of an error (R28; `60_exceptions.md` R250). -/
def CmdError.code : CmdError → Byte
  | .lengthError => 0x01
  | .encryptionFailure => 0x02
  | .illegalCommand => 0x03

/-- The byte a one-bit flag operand enters `p1` as: bit 0 zero-extended, bits 7:1 ignored (`30_encoding.md` R94). -/
def flagByte (b : Byte) : Byte := zext8 (b.getLsbD 0)

end Sys2Proof.Machine
end

