-- ==== Sys2Proof/Machine/Operands.lean ====
section
/-! DEFINITION. Operand assembly (`30_encoding.md` R93 to R95): which slots a command reads, at which lengths, and how a field is
taken from its slot; the message of `CMAC` (`10_state.md` R23, R24). -/

namespace Sys2Proof.Machine

/-- A command's operand contract: slots and their lengths in bytes (R93). -/
abbrev Contract := List (Fin 8 × Nat)

/-- The operand table of R93, the slots in the order of the document's signatures. -/
def contract : Instr → Contract
  | .subkeys => [(0, 16)]
  | .cmac => [(0, 16)]
  | .ah => [(0, 16), (1, 3)]
  | .c1 => [(0, 16), (1, 16), (2, 7), (3, 7), (4, 1), (5, 6), (6, 1), (7, 6)]
  | .s1 => [(0, 16), (1, 16), (2, 16)]
  | .g2 => [(0, 32), (1, 32), (2, 16), (3, 16)]
  | .f4 => [(0, 32), (1, 32), (2, 16), (3, 1)]
  | .f5 => [(0, 32), (1, 16), (2, 16), (3, 7), (4, 7)]
  | .f6 => [(0, 16), (1, 16), (2, 16), (3, 16), (4, 3), (5, 7), (6, 7)]
  | .h6 => [(0, 16), (1, 4)]

/-- Every slot of a contract has its `SLEN` at the contract length exactly (R95; `40_command_lifecycle.md` R123 step 2). -/
def lengthsOk (c : Contract) (s : State) : Bool :=
  c.all fun p => s.slen[p.1] == BitVec.ofNat 8 p.2

/-- `opnd(n)` at contract length `len` (R94): bytes `S[n][0 .. len-1]`, byte 0 the most significant octet. -/
def State.opnd (s : State) (n : Fin 8) (len : Nat) (h : len ≤ 32) : Bytes len :=
  Vector.ofFn fun i => s.slots[n][i.val]'(by omega)

/-- The message buffer's byte at an index. -/
def Memory.read : Memory → Nat → Byte
  | [], _ => Memory.unlisted
  | c :: rest, j => if c.1 = j then c.2 else Memory.read rest j

/-- The message `MSG[0 .. MSG_LEN-1]` (`10_state.md` R23; `42_cmac.md` R175). -/
def State.message (s : State) : List Byte :=
  (List.range s.msgLen.toNat).map s.msg.read

end Sys2Proof.Machine
end

