-- ==== Sys2Proof/Machine/Port.lean ====
section
/-! DEFINITION. The cipher port (`40_command_lifecycle.md` R124, R125): a command's pseudocode as a program that asks for one
encryption after another, and how the collaborator's replies drive it. -/

namespace Sys2Proof.Machine

/-- Pseudocode over the cipher: it ends, or it evaluates `E(key, block)` and goes on with the reply (R124). -/
inductive Prog (α : Type) where
  | done (a : α)
  | ask (key block : Block) (next : Block → Prog α)

/-- `E(key, block)` as a program of one request. -/
def Prog.cipher (key block : Block) : Prog Block := .ask key block .done

/-- Sequencing: `p`, then `f` on what it gave. -/
def Prog.bind {α β : Type} : Prog α → (α → Prog β) → Prog β
  | .done a, f => f a
  | .ask key block next, f => .ask key block fun c => (next c).bind f

/-- How far an evaluation came (R125, R133). -/
inductive Progress (α : Type) where
  /-- The pseudocode ended. -/
  | done (a : α)
  /-- A request was answered `fail`. -/
  | failed
  /-- The last request issued has no answer yet. -/
  | waiting
  deriving DecidableEq, Repr

/-- Evaluate a program whose next request has index `k`: the requests it issues, in order, and how far it comes. The next
request goes out only after the `ok` reply to the one before (R124); `fail` ends the evaluation (R125). -/
def Prog.run {α : Type} (E : Block → Block → Block) (reply : Nat → Reply) :
    Prog α → Nat → List Request × Progress α
  | .done a, _ => ([], .done a)
  | .ask key block next, k =>
    match reply k with
    | .ok =>
      let rest := (next (E key block)).run E reply (k + 1)
      (⟨key, block⟩ :: rest.1, rest.2)
    | .fail => ([⟨key, block⟩], .failed)
    | .silent => ([⟨key, block⟩], .waiting)

/-- The value a program ends with when every request is answered `ok` (`CipherReliable`, R9). -/
def Prog.value {α : Type} (E : Block → Block → Block) : Prog α → α
  | .done a => a
  | .ask key block next => (next (E key block)).value E

/-- The requests a program issues when every one is answered `ok` (R131, "the command's request list"). -/
def Prog.requests {α : Type} (E : Block → Block → Block) : Prog α → List Request
  | .done _ => []
  | .ask key block next => ⟨key, block⟩ :: (next (E key block)).requests E

/-- The reply to request `k` of the command in BUSY: `ok` for those already answered, then the collaborator's coming replies,
then free draws (R9, `CIPHER_FAILS`). -/
def State.reply (s : State) (k : Nat) : Reply :=
  if k < s.answered then .ok
  else s.replies.getD (k - s.answered) (Config.cipherReply (s.drawn + (k - s.answered)))

end Sys2Proof.Machine
end

