-- ==== Sys2Proof/Machine/Ops.lean ====
section
/-! DEFINITION. The shared operations: the message buffer, the two host transactions (`40_command_lifecycle.md` R120, R121),
acceptance (R122), the two completions and zeroizing (R126 to R128), a failed completion being this hardware's exception entry
(`60_exceptions.md` R255), reset (`70_reset_and_hazards.md` R280), and the life of a command between acceptance and completion
(R123 to R125, R131). -/

namespace Sys2Proof.Machine

/-! ### The message buffer -/

/-- The canonical form: indices strictly rising, no byte listed that an unlisted index reads as. -/
abbrev Memory.wf (m : Memory) : Prop :=
  m.Pairwise (fun a b => a.1 < b.1) ∧ ∀ c ∈ m, c.2 ≠ Memory.unlisted

/-- `MSG[j] <- v`, keeping the canonical form. -/
def Memory.write : Memory → Nat → Byte → Memory
  | [], j, v => if v = Memory.unlisted then [] else [(j, v)]
  | c :: rest, j, v =>
    if j < c.1 then
      if v = Memory.unlisted then c :: rest else (j, v) :: c :: rest
    else if j = c.1 then
      if v = Memory.unlisted then rest else (j, v) :: rest
    else c :: Memory.write rest j v

/-! ### The two halves of MSG_LEN (`20_memory.md` R64) -/

/-- `MSG_LEN[15:8]`. -/
def msgLenHi (l : BitVec 16) : Byte := l.extractLsb' 8 8

/-- `MSG_LEN[7:0]`. -/
def msgLenLo (l : BitVec 16) : Byte := l.extractLsb' 0 8

/-! ### Acceptance, zeroizing, completion, reset -/

/-- `Accept(v)` (R122): the opcode is latched and the outcome of the last command cleared; operands are not touched. -/
def accept (v : Byte) (s : State) : State :=
  { s with
    op := v
    phase := .busy
    errcode := 0x00
    reslen := 0x00
    result := zeroBytes 32
    answered := 0
    requests := [] }

/-- `Zeroize()` (R128): all operand storage, not only the slots the command used. -/
def zeroize (s : State) : State :=
  { s with
    slots := Vector.replicate 8 (zeroBytes 32)
    slen := zeroBytes 8
    msg := []
    msgLen := 0 }

/-- `RESULT` holding an output: its bytes from index 0 on, then `0x00` (R126; `10_state.md` R30). -/
def resultOf (out : List Byte) : Bytes 32 :=
  Vector.ofFn fun j => out.getD j.val 0x00

/-- Successful completion (R126). -/
def completeOk (out : List Byte) (s : State) : State :=
  { zeroize s with
    result := resultOf out
    reslen := BitVec.ofNat 8 out.length
    errcode := 0x00
    phase := .done
    answered := 0 }

/-- Failed completion (R127), the error entry of `60_exceptions.md` R255: it saves the code and goes nowhere. There is no
return from it (R257): phase ERROR is left by the next `accept`, or by reset. -/
def completeErr (e : CmdError) (s : State) : State :=
  { zeroize s with
    result := zeroBytes 32
    reslen := 0x00
    errcode := e.code
    phase := .error
    answered := 0 }

/-- The reset event (R280): the engine's state is that of `10_state.md` R36 and a command in flight is abandoned (R281). The
host and the collaborator are other agents and keep their own. -/
def resetEvent (s : State) : State :=
  { State.reset with
    replies := s.replies
    drawn := s.drawn
    script := s.script
    readLog := s.readLog
    schedule := s.schedule }

/-! ### The two host transactions -/

/-- `RegRead(off)` (R121): the byte read. It changes no state (R67). -/
def State.regRead (s : State) (off : Offset) : Byte :=
  match regAt off with
  | .cmd => 0x00
  | .status => statusByte s.phase
  | .errcode => s.errcode
  | .reslen => s.reslen
  | .msgLenHi => Sys2Proof.Machine.msgLenHi s.msgLen
  | .msgLenLo => Sys2Proof.Machine.msgLenLo s.msgLen
  | .slen n => s.slen[n]
  | .result j => s.result[j]
  | .slot n j => s.slots[n][j]
  | .msg j => s.msg.read j
  | .reserved => 0x00

/-- `RegWrite(off, v)` (R120). -/
def State.regWrite (s : State) (off : Offset) (v : Byte) : State :=
  if s.phase = .busy then s
  else
    match regAt off with
    | .cmd => accept v s
    | .status => s
    | .errcode => s
    | .reslen => s
    | .msgLenHi => { s with msgLen := v ++ Sys2Proof.Machine.msgLenLo s.msgLen }
    | .msgLenLo => { s with msgLen := Sys2Proof.Machine.msgLenHi s.msgLen ++ v }
    | .slen n => { s with slen := s.slen.set n v }
    | .result _ => s
    | .slot n j => { s with slots := s.slots.set n (s.slots[n].set j v) }
    | .msg j => { s with msg := s.msg.write j v }
    | .reserved => s

/-! ### A command between acceptance and completion -/

/-- The port after an evaluation that issued `reqs` for the command: the replies it used are gone. -/
def afterRequests (reqs : List Request) (s : State) : State :=
  { s with
    requests := reqs
    replies := s.replies.drop (reqs.length - s.answered)
    drawn := s.drawn + (reqs.length - s.answered) }

/-- No answer yet to the last of `reqs` (R133): the command stays where it is, all requests but that one answered. -/
def awaitReply (reqs : List Request) (s : State) : State :=
  { afterRequests reqs s with answered := reqs.length - 1 }

/-- What an evaluation leads to (R125 to R127, R133). -/
def settle (run : List Request × Progress (List Byte)) (s : State) : State :=
  match run.2 with
  | .done out => completeOk out (afterRequests run.1 s)
  | .failed => completeErr .encryptionFailure (afterRequests run.1 s)
  | .waiting => awaitReply run.1 s

/-- A command that ends with an error before its first request (R123). -/
def rejectCommand (e : CmdError) (s : State) : State :=
  completeErr e (afterRequests [] s)

/-- A command after acceptance (R131): validation first, no request when a check fails (R123), then its pseudocode with the
collaborator's replies. `valid` is R123 step 2. -/
def runCommand (valid : Bool) (body : Prog (List Byte)) (s : State) : Host.Outcome State Fault Refusal :=
  if valid then .next (settle (body.run Config.blockCipher s.reply 0) s)
  else .next (rejectCommand .lengthError s)

end Sys2Proof.Machine
end

