-- ==== Sys2Proof/Machine/Cmac.lean ====
section
/-! DEFINITION. CmacEngine: subkey derivation and tag computation, and the commands `SUBKEYS` and `CMAC` (`42_cmac.md`). -/

namespace Sys2Proof.Machine

/-- `deriveSubkeys(key) -> (K1, K2)` (R171). -/
def deriveSubkeys (key : Block) : Prog (Block × Block) :=
  (Prog.cipher key ZERO16).bind fun l => .done (dbl l, dbl (dbl l))

/-- `n`, the number of blocks of a message of `len` bytes (R172 step 1). -/
def blockCount (len : Nat) : Nat := if len = 0 then 1 else (len + 15) / 16

/-- Whether the last block is complete (R172 step 2). -/
def lastComplete (len : Nat) : Bool := decide (0 < len) && decide (len % 16 = 0)

/-- Bytes `16*i .. 16*i + 15` of a message: block `M_(i+1)` of R172. The engine takes only blocks that lie inside the message. -/
def messageBlock (message : List Byte) (i : Nat) : Block :=
  Vector.ofFn fun j => message.getD (16 * i + j.val) 0x00

/-- The bytes from `16*(n-1)` on: the last partial block of R172 (empty when the message is). -/
def lastPartial (message : List Byte) : List Byte := message.drop (16 * (blockCount message.length - 1))

/-- `pad` is called within its precondition (`41_byteops.md` R156). -/
theorem lastPartial_pad_precondition (message : List Byte) :
    message.length % 16 ≤ 16 ∧ message.length % 16 ≤ (lastPartial message).length := by
  simp only [lastPartial, blockCount, List.length_drop]
  split <;> omega

/-- `M_last` (R172 step 2). -/
def lastBlock (message : List Byte) (k1 k2 : Block) : Block :=
  if lastComplete message.length then xor16 (messageBlock message (blockCount message.length - 1)) k1
  else xor16 (pad (lastPartial message) (message.length % 16) (lastPartial_pad_precondition message)) k2

/-- The chaining loop (R172 step 3) over a list of full blocks. -/
def chain (key : Block) : List Block → Block → Prog Block
  | [], x => .done x
  | m :: rest, x => (Prog.cipher key (xor16 x m)).bind (chain key rest)

/-- `cmac(key, message) -> tag` (R172): the subkey request first, the chaining requests ascending, the final one last. -/
def cmac (key : Block) (message : List Byte) : Prog Block :=
  (deriveSubkeys key).bind fun k =>
    (chain key ((List.range (blockCount message.length - 1)).map (messageBlock message)) ZERO16).bind fun x =>
      Prog.cipher key (xor16 x (lastBlock message k.1 k.2))

/-- The pseudocode of `SUBKEYS` (R174). -/
def progSubkeys (s : State) : Prog (List Byte) :=
  (deriveSubkeys (s.opnd 0 16 (by omega))).bind fun k => .done (k.1.toList ++ k.2.toList)

/-- The pseudocode of `CMAC` (R175). -/
def progCmac (s : State) : Prog (List Byte) :=
  (cmac (s.opnd 0 16 (by omega)) s.message).bind fun tag => .done tag.toList

/-- `SUBKEYS` (R174). -/
def execSubkeys (s : State) : Host.Outcome State Fault Refusal :=
  runCommand (lengthsOk (contract .subkeys) s) (progSubkeys s) s

/-- `CMAC` (R175): the message must fit the buffer as well. -/
def execCmac (s : State) : Host.Outcome State Fault Refusal :=
  runCommand (lengthsOk (contract .cmac) s && decide (s.msgLen.toNat ≤ Config.msgMax)) (progCmac s) s

end Sys2Proof.Machine
end

