-- ==== Sys2Proof/Machine/SmpCheck.lean ====
section
/-! DEFINITION. The SMP confirmation and address-hash commands `AH`, `C1`, `S1`, `G2` (`43_smp_check.md`). -/

namespace Sys2Proof.Machine

/-- The pseudocode of `AH` (R191): `r' = 0^104 || r`, and the low 24 bits of `E(k, r')`. -/
def progAh (s : State) : Prog (List Byte) :=
  let k := s.opnd 0 16 (by omega)
  let r := s.opnd 1 3 (by omega)
  let r' := toBlock ((zeroBytes 13).toList ++ r.toList) (by simp)
  (Prog.cipher k r').bind fun e => .done (low e 3 (by omega)).toList

/-- The pseudocode of `C1` (R192): `pres` before `preq` and `rat'` before `iat'` in `p1`; `ia` before `ra` in `p2`. -/
def progC1 (s : State) : Prog (List Byte) :=
  let k := s.opnd 0 16 (by omega)
  let r := s.opnd 1 16 (by omega)
  let preq := s.opnd 2 7 (by omega)
  let pres := s.opnd 3 7 (by omega)
  let iat' := flagByte (s.opnd 4 1 (by omega))[0]
  let ia := s.opnd 5 6 (by omega)
  let rat' := flagByte (s.opnd 6 1 (by omega))[0]
  let ra := s.opnd 7 6 (by omega)
  let p1 := toBlock (pres.toList ++ preq.toList ++ [rat'] ++ [iat']) (by simp)
  let p2 := toBlock ((zeroBytes 4).toList ++ ia.toList ++ ra.toList) (by simp)
  (Prog.cipher k (xor16 r p1)).bind fun t1 =>
    (Prog.cipher k (xor16 t1 p2)).bind fun out => .done out.toList

/-- The pseudocode of `S1` (R193): the low 64 bits of each nonce, the high ones discarded. -/
def progS1 (s : State) : Prog (List Byte) :=
  let k := s.opnd 0 16 (by omega)
  let r1 := s.opnd 1 16 (by omega)
  let r2 := s.opnd 2 16 (by omega)
  let r' := toBlock ((low r1 8 (by omega)).toList ++ (low r2 8 (by omega)).toList) (by simp)
  (Prog.cipher k r').bind fun out => .done out.toList

/-- The pseudocode of `G2` (R194): `m = u || v || y` under the key `x`, and the low 32 bits of the tag. -/
def progG2 (s : State) : Prog (List Byte) :=
  let u := s.opnd 0 32 (by omega)
  let v := s.opnd 1 32 (by omega)
  let x := s.opnd 2 16 (by omega)
  let y := s.opnd 3 16 (by omega)
  let m := u.toList ++ v.toList ++ y.toList
  (cmac x m).bind fun tag => .done (low tag 4 (by omega)).toList

/-- `AH` (R191). -/
def execAh (s : State) : Host.Outcome State Fault Refusal :=
  runCommand (lengthsOk (contract .ah) s) (progAh s) s

/-- `C1` (R192). -/
def execC1 (s : State) : Host.Outcome State Fault Refusal :=
  runCommand (lengthsOk (contract .c1) s) (progC1 s) s

/-- `S1` (R193). -/
def execS1 (s : State) : Host.Outcome State Fault Refusal :=
  runCommand (lengthsOk (contract .s1) s) (progS1 s) s

/-- `G2` (R194). -/
def execG2 (s : State) : Host.Outcome State Fault Refusal :=
  runCommand (lengthsOk (contract .g2) s) (progG2 s) s

end Sys2Proof.Machine
end

