-- ==== Sys2Proof/Machine/SmpDeriv.lean ====
section
/-! DEFINITION. The SMP key-derivation commands `F4`, `F5`, `F6`, `H6` (`44_smp_deriv.md`). -/

namespace Sys2Proof.Machine

/-- `KEYID_BTLE`, the bytes of "btle" (R221; `10_state.md` R35). -/
def keyIdBtle : Bytes 4 := #v[0x62, 0x74, 0x6c, 0x65]

/-- `LENGTH_256` (R221; `10_state.md` R35). -/
def length256 : Bytes 2 := #v[0x01, 0x00]

/-- The pseudocode of `F4` (R220): `m = u || v || z` under the key `x`. -/
def progF4 (s : State) : Prog (List Byte) :=
  let u := s.opnd 0 32 (by omega)
  let v := s.opnd 1 32 (by omega)
  let x := s.opnd 2 16 (by omega)
  let z := s.opnd 3 1 (by omega)
  let m := u.toList ++ v.toList ++ z.toList
  (cmac x m).bind fun out => .done out.toList

/-- `m_c` of `F5`, `c` the one-byte counter (R222). -/
def f5Message (counter : Byte) (n1 n2 : Bytes 16) (a1 a2 : Bytes 7) : List Byte :=
  [counter] ++ keyIdBtle.toList ++ n1.toList ++ n2.toList ++ a1.toList ++ a2.toList ++ length256.toList

/-- The pseudocode of `F5` (R222): `T` under `SALT`, then `MacKey`, then `LTK`, the subkeys of `T` derived in each. -/
def progF5 (salt : Block) (s : State) : Prog (List Byte) :=
  let w := s.opnd 0 32 (by omega)
  let n1 := s.opnd 1 16 (by omega)
  let n2 := s.opnd 2 16 (by omega)
  let a1 := s.opnd 3 7 (by omega)
  let a2 := s.opnd 4 7 (by omega)
  (cmac salt w.toList).bind fun t =>
    (cmac t (f5Message 0x00 n1 n2 a1 a2)).bind fun macKey =>
      (cmac t (f5Message 0x01 n1 n2 a1 a2)).bind fun ltk => .done (macKey.toList ++ ltk.toList)

/-- The pseudocode of `F6` (R223): `m = n1 || n2 || r || io_cap || a1 || a2` under the key `w`. -/
def progF6 (s : State) : Prog (List Byte) :=
  let w := s.opnd 0 16 (by omega)
  let n1 := s.opnd 1 16 (by omega)
  let n2 := s.opnd 2 16 (by omega)
  let r := s.opnd 3 16 (by omega)
  let ioCap := s.opnd 4 3 (by omega)
  let a1 := s.opnd 5 7 (by omega)
  let a2 := s.opnd 6 7 (by omega)
  let m := n1.toList ++ n2.toList ++ r.toList ++ ioCap.toList ++ a1.toList ++ a2.toList
  (cmac w m).bind fun out => .done out.toList

/-- The pseudocode of `H6` (R224): `w` is 16 bytes (`90_conflicts.md` C1). -/
def progH6 (s : State) : Prog (List Byte) :=
  let w := s.opnd 0 16 (by omega)
  let keyId := s.opnd 1 4 (by omega)
  (cmac w keyId.toList).bind fun out => .done out.toList

/-- `F4` (R220). -/
def execF4 (s : State) : Host.Outcome State Fault Refusal :=
  runCommand (lengthsOk (contract .f4) s) (progF4 s) s

/-- `F5` (R222). -/
def execF5 (s : State) : Host.Outcome State Fault Refusal :=
  runCommand (lengthsOk (contract .f5) s) (progF5 Config.salt s) s

/-- `F6` (R223). -/
def execF6 (s : State) : Host.Outcome State Fault Refusal :=
  runCommand (lengthsOk (contract .f6) s) (progF6 s) s

/-- `H6` (R224). -/
def execH6 (s : State) : Host.Outcome State Fault Refusal :=
  runCommand (lengthsOk (contract .h6) s) (progH6 s) s

end Sys2Proof.Machine
end

