-- ==== Sys2Proof/Machine/Dispatch.lean ====
section
/-! DEFINITION. One arm per command: what the engine does with it from acceptance on (`40_command_lifecycle.md` R131). -/

namespace Sys2Proof.Machine

def exec (i : Instr) (s : State) : Host.Outcome State Fault Refusal :=
  match i with
  | .subkeys => Sys2Proof.Machine.execSubkeys s
  | .cmac => Sys2Proof.Machine.execCmac s
  | .ah => Sys2Proof.Machine.execAh s
  | .c1 => Sys2Proof.Machine.execC1 s
  | .s1 => Sys2Proof.Machine.execS1 s
  | .g2 => Sys2Proof.Machine.execG2 s
  | .f4 => Sys2Proof.Machine.execF4 s
  | .f5 => Sys2Proof.Machine.execF5 s
  | .f6 => Sys2Proof.Machine.execF6 s
  | .h6 => Sys2Proof.Machine.execH6 s

end Sys2Proof.Machine
end

