-- ==== Sys2Proof/Machine/Agents.lean ====
section
/-! DEFINITION. The turns of the agents of `00_scope.md` R10: the host (`30_encoding.md` R96, R97), the engine with the cipher
collaborator behind its port (`40_command_lifecycle.md` R123 to R127), and the reset event (`70_reset_and_hazards.md` R280). -/

namespace Sys2Proof.Machine

/-- `RD off`: the host notes the byte `RegRead` returns (R96). -/
def hostRead (off : Offset) (s : State) : State :=
  { s with readLog := s.readLog ++ [(off, s.regRead off)] }

/-- The host's turn: it executes the next statement of its script (`20_memory.md` R70, program order). `WAIT` reads `STATUS`
and stays while bit 0 is set; `READRES` reads `RESLEN` and goes on with that many result bytes (`30_encoding.md` R97). -/
def hostTurn (s : State) : Host.Outcome State Fault Refusal :=
  match s.script with
  | [] => .next s
  | .wr off v :: rest => .next (State.regWrite { s with script := rest } off v)
  | .rd off :: rest => .next (hostRead off { s with script := rest })
  | .wait :: rest =>
    if busyBit (s.regRead 0x0001) then .next (hostRead 0x0001 s)
    else .next (hostRead 0x0001 { s with script := rest })
  | .readres :: rest => .next (hostRead 0x0003 { s with script := resultReads (s.regRead 0x0003) ++ rest })
  | .wide _ _ :: _ => .refused .wideAccess

/-- The engine's turn. While BUSY it runs the latched opcode; a reserved one fails with `IllegalCommand` before any length is
looked at (R123 step 1, R253, R254). In every other phase it has nothing to do (`10_state.md` R33). -/
def engineTurn (s : State) : Host.Outcome State Fault Refusal :=
  if s.phase = .busy then
    match decodeByte s.op with
    | .ok i => exec i s
    | .error _ => .next (rejectCommand .illegalCommand s)
  else .next s

/-- One turn. A reply to a request that a reset abandoned is discarded (R281). -/
def takeTurn (t : Turn) (s : State) : Host.Outcome State Fault Refusal :=
  match t with
  | .host => hostTurn s
  | .engine => engineTurn s
  | .reset => .next (resetEvent s)
  | .strayReply => .next s

/-- Whose turn it is when none is appointed: the engine's while a command is BUSY (the fairness R133 assumes), else the host's.
DESIGN CHOICE (log 7). -/
def defaultTurn (s : State) : Turn :=
  if s.phase = .busy then .engine else .host

/-- The turn the next step takes: the first of the schedule, or the default one. -/
def nextTurn (s : State) : Turn := s.schedule.headD (defaultTurn s)

/-- The state in which that turn is taken: the turn is off the schedule. -/
def turnTaken (s : State) : State := { s with schedule := s.schedule.tail }

/-- `withFetchWord`: the byte is accepted as a command (R122) and the next turn is the engine's. -/
def acceptNext (b : Byte) (s : State) : State :=
  { accept b s with
    schedule :=
      match s.schedule with
      | [] => []
      | turns => .engine :: turns }

end Sys2Proof.Machine
end

