-- ==== Sys2Proof/Machine/Step.lean ====
section
/-! DEFINITION. One step of the machine: the next turn of the total order of `20_memory.md` R70. -/

namespace Sys2Proof.Machine

/-- The next turn is taken: the first of the schedule, or `defaultTurn` when none is appointed. -/
def step (s : State) : Host.Outcome State Fault Refusal :=
  takeTurn (nextTurn s) (turnTaken s)

/-- The engine has no program counter and fetches nothing (`10_state.md` R33); the command it runs next is the latched opcode
of a BUSY phase. So the first byte of the word is accepted as a command (R122), and the next turn is the engine's (log 8). -/
def State.withFetchWord (s : State) (nbits w : Nat) : State :=
  acceptNext ((tableBytes nbits w).headD 0x00) s

end Sys2Proof.Machine
end

