-- ==== Sys2Proof/Safety.lean ====
section
/-! DEFINITION. The terms claims use: the invariant of the status state (`10_state.md` R27), the shapes a command's outcome can
take, and a reference for what each command computes, written by byte index and block number from the rules' layouts and
independent of the machine's programs. -/

namespace Sys2Proof.Safety

open Sys2Proof.Machine

/-! ### Invariants -/

/-- `10_state.md` R27 (b) to (d) with the values R28 and R29 allow. -/
structure StatusInv (s : State) : Prop where
  errorIff : s.phase = .error ↔ s.errcode ≠ 0x00
  errcodeLegal : s.errcode ∈ ([0x00, 0x01, 0x02, 0x03] : List Byte)
  doneIff : s.phase = .done ↔ s.reslen ≠ 0x00
  reslenLegal : s.reslen ∈ ([0, 3, 4, 16, 32] : List Byte)
  resultTail : ∀ j : Fin 32, s.reslen.toNat ≤ j.val → s.result[j] = 0x00

/-- The message buffer keeps its canonical form and lies inside its `MSG_MAX` bytes (`10_state.md` R23). -/
structure MemoryInv (s : State) : Prop where
  canonical : Memory.wf s.msg
  inBuffer : ∀ c ∈ s.msg, c.1 < Config.msgMax

/-- What every step keeps. `portIdle`: outside BUSY no request of a command is under way. -/
structure Inv (s : State) : Prop where
  status : StatusInv s
  memory : MemoryInv s
  portIdle : s.phase ≠ .busy → s.answered = 0

/-- The whole engine as the host sees it: the two states read the same at every offset. -/
def sameRegisters (s t : State) : Prop := ∀ off : Offset, s.regRead off = t.regRead off

/-- The agents outside the engine, the host's record, and the order of turns are the same. -/
def sameOutside (s t : State) : Prop :=
  s.replies = t.replies ∧ s.drawn = t.drawn ∧ s.script = t.script ∧ s.readLog = t.readLog ∧ s.schedule = t.schedule

/-- All operand storage is `0x00` (`40_command_lifecycle.md` R128). -/
def operandsZero (s : State) : Prop :=
  (∀ (n : Fin 8) (j : Fin 32), s.slots[n][j] = 0x00) ∧ (∀ n : Fin 8, s.slen[n] = 0x00)
    ∧ (∀ j : Nat, s.msg.read j = 0x00) ∧ s.msgLen = 0

/-! ### The shapes of an outcome -/

/-- The state with its operand storage cleared and the replies to `reqs` used up; everything not listed is as in `s`. -/
def ended (s : State) (reqs : List Request) (phase : Phase) (errcode : Byte) (out : List Byte) : State where
  slots := Vector.replicate 8 (zeroBytes 32)
  slen := zeroBytes 8
  msg := []
  msgLen := 0
  phase := phase
  errcode := errcode
  reslen := BitVec.ofNat 8 out.length
  result := Vector.ofFn fun j => out.getD j.val 0x00
  op := s.op
  answered := 0
  requests := reqs
  replies := s.replies.drop (reqs.length - s.answered)
  drawn := s.drawn + (reqs.length - s.answered)
  script := s.script
  readLog := s.readLog
  schedule := s.schedule

/-- A command ended with output `out` (`40_command_lifecycle.md` R126, R128). -/
def delivered (s : State) (reqs : List Request) (out : List Byte) : State := ended s reqs .done 0x00 out

/-- A command ended in error `code` (R127, R128). -/
def failed (s : State) (reqs : List Request) (code : Byte) : State := ended s reqs .error code []

/-- A command whose last request has no answer yet (R133): nothing changed but the port. -/
def waiting (s : State) (reqs : List Request) : State :=
  { s with
    answered := reqs.length - 1
    requests := reqs
    replies := s.replies.drop (reqs.length - s.answered)
    drawn := s.drawn + (reqs.length - s.answered) }

/-- The first of `m` requests that is not answered `ok`. -/
def firstNotOk (reply : Nat → Reply) (m : Nat) : Option Nat :=
  (List.range m).find? fun k => decide (reply k ≠ .ok)

/-- What a validated command with request list `reqs` and output `out` leads to, the replies decided: `out` if all are `ok`, else
`EncryptionFailure` or waiting at the first that is not, no later request issued (R125 to R127, R133). -/
def answeredOutcome (s : State) (reqs : List Request) (out : List Byte) : State :=
  match firstNotOk s.reply reqs.length with
  | none => delivered s reqs out
  | some k =>
    if s.reply k = .silent then waiting s (reqs.take (k + 1)) else failed s (reqs.take (k + 1)) 0x02

/-- A command's whole effect: `LengthError` without a request if a length is wrong, else what the replies make of it. -/
def commandOutcome (s : State) (lengthsRight : Prop) [Decidable lengthsRight] (reqs : List Request)
    (out : List Byte) : State :=
  if lengthsRight then answeredOutcome s reqs out else failed s [] 0x01

/-- What a run of a program with request list `reqs` and value `out` comes to, the replies decided (R125). -/
def runOutcome {α : Type} (reply : Nat → Reply) (reqs : List Request) (out : α) : List Request × Progress α :=
  match firstNotOk reply reqs.length with
  | none => (reqs, .done out)
  | some k => (reqs.take (k + 1), if reply k = .silent then .waiting else .failed)

/-- Two states agree on the engine's state of `10_state.md` R20, the latched opcode apart (R31), and on the requests the
collaborator has seen (`40_command_lifecycle.md` R131). -/
def agrees (t u : State) : Prop :=
  t.slots = u.slots ∧ t.slen = u.slen ∧ t.msg = u.msg ∧ t.msgLen = u.msgLen ∧ t.phase = u.phase
    ∧ t.errcode = u.errcode ∧ t.reslen = u.reslen ∧ t.result = u.result ∧ t.requests = u.requests

/-! ### What the functions compute -/

/-- `int(B)` (`00_scope.md` R11): the integer a byte string denotes, byte 0 the most significant. -/
def integer {n : Nat} (b : Bytes n) : Nat := ∑ i : Fin n, b[i].toNat * 256 ^ (n - 1 - i.val)

/-- The byte of a slot at an index, `0x00` beyond the slot. -/
def byteOf (s : State) (n : Fin 8) (j : Nat) : Byte := s.slots[n][j]?.getD 0x00

/-- The first 16 bytes of a slot. -/
def blockOf (s : State) (n : Fin 8) : Block := Vector.ofFn fun j => byteOf s n j.val

/-- The first `len` bytes of a slot. -/
def bytesOf (s : State) (n : Fin 8) (len : Nat) : List Byte := (List.range len).map (byteOf s n)

/-- The message of `CMAC`: byte `j` is `MSG[j]` (`42_cmac.md` R175). -/
def messageOf (s : State) : List Byte := (List.range s.msgLen.toNat).map s.msg.read

/-- `K1` (`42_cmac.md` R171). -/
def subkey1 (E : Block → Block → Block) (key : Block) : Block := dbl (E key ZERO16)

/-- `K2` (R171): the same rule applied to the finished `K1`. -/
def subkey2 (E : Block → Block → Block) (key : Block) : Block := dbl (subkey1 E key)

/-- `n = max(1, ceil(len/16))` (`42_cmac.md` R172, R175). -/
def blockNumber (len : Nat) : Nat := max 1 ((len + 15) / 16)

/-- Byte `j` of block `M_(i+1)` of a message, padded beyond its end with `80 00 .. 00` (R172, `41_byteops.md` R152). -/
def paddedByte (message : List Byte) (i j : Nat) : Byte :=
  let p := 16 * i + j
  if p < message.length then message.getD p 0x00 else if p = message.length then 0x80 else 0x00

/-- Block `M_(i+1)` of a message, padded if it is the last and incomplete (R172). -/
def paddedBlock (message : List Byte) (i : Nat) : Block := Vector.ofFn fun j => paddedByte message i j.val

/-- The chaining value `X` after `i` full blocks (R172 step 3). -/
def chainValue (E : Block → Block → Block) (key : Block) (message : List Byte) : Nat → Block
  | 0 => ZERO16
  | i + 1 => E key (xor16 (chainValue E key message i) (paddedBlock message i))

/-- The subkey that enters the last block: `K1` iff the last block is complete (R172 step 2). -/
def finalSubkey (E : Block → Block → Block) (key : Block) (message : List Byte) : Block :=
  if message.length ≠ 0 ∧ message.length % 16 = 0 then subkey1 E key else subkey2 E key

/-- The block of the final request, `X XOR M_last` (R172 step 4). -/
def finalBlock (E : Block → Block → Block) (key : Block) (message : List Byte) : Block :=
  let n := blockNumber message.length
  xor16 (chainValue E key message (n - 1)) (xor16 (paddedBlock message (n - 1)) (finalSubkey E key message))

/-- The tag (R172 step 4). -/
def cmacTag (E : Block → Block → Block) (key : Block) (message : List Byte) : Block :=
  E key (finalBlock E key message)

/-- The request list of `cmac` (R172): the subkey request, the chaining requests ascending, the final one. -/
def cmacRequests (E : Block → Block → Block) (key : Block) (message : List Byte) : List Request :=
  [⟨key, ZERO16⟩]
    ++ ((List.range (blockNumber message.length - 1)).map fun i =>
        ⟨key, xor16 (chainValue E key message i) (paddedBlock message i)⟩)
    ++ [⟨key, finalBlock E key message⟩]

/-- `m_c` of `F5` by byte index (`44_smp_deriv.md` R222, "Byte layout of `m_c`"). -/
def f5Layout (s : State) (counter : Byte) : List Byte :=
  (List.range 53).map fun i =>
    if i = 0 then counter
    else if i ≤ 4 then [0x62, 0x74, 0x6c, 0x65].getD (i - 1) 0x00
    else if i ≤ 20 then byteOf s 1 (i - 5)
    else if i ≤ 36 then byteOf s 2 (i - 21)
    else if i ≤ 43 then byteOf s 3 (i - 37)
    else if i ≤ 50 then byteOf s 4 (i - 44)
    else [0x01, 0x00].getD (i - 51) 0x00

/-- `p1` of `C1` by byte index (`43_smp_check.md` R192). -/
def c1P1 (s : State) : Block :=
  Vector.ofFn fun i =>
    if i.val ≤ 6 then byteOf s 3 i.val
    else if i.val ≤ 13 then byteOf s 2 (i.val - 7)
    else if i.val = 14 then byteOf s 6 0 &&& 0x01#8
    else byteOf s 4 0 &&& 0x01#8

/-- `p2` of `C1` by byte index (R192). -/
def c1P2 (s : State) : Block :=
  Vector.ofFn fun i =>
    if i.val ≤ 3 then 0x00 else if i.val ≤ 9 then byteOf s 5 (i.val - 4) else byteOf s 7 (i.val - 10)

/-- `m` of `F6` by byte index (`44_smp_deriv.md` R223). -/
def f6Layout (s : State) : List Byte :=
  (List.range 65).map fun i =>
    if i ≤ 15 then byteOf s 1 i
    else if i ≤ 31 then byteOf s 2 (i - 16)
    else if i ≤ 47 then byteOf s 3 (i - 32)
    else if i ≤ 50 then byteOf s 4 (i - 48)
    else if i ≤ 57 then byteOf s 5 (i - 51)
    else byteOf s 6 (i - 58)

/-- The lengths with which each command does not fail (`60_exceptions.md` R251, the negation of its table). -/
def lengthsRight (i : Instr) (s : State) : Prop :=
  match i with
  | .subkeys => s.slen[0] = 16
  | .cmac => s.slen[0] = 16 ∧ s.msgLen.toNat ≤ Config.msgMax
  | .ah => s.slen[0] = 16 ∧ s.slen[1] = 3
  | .c1 => s.slen[0] = 16 ∧ s.slen[1] = 16 ∧ s.slen[2] = 7 ∧ s.slen[3] = 7 ∧ s.slen[4] = 1 ∧ s.slen[5] = 6
      ∧ s.slen[6] = 1 ∧ s.slen[7] = 6
  | .s1 => s.slen[0] = 16 ∧ s.slen[1] = 16 ∧ s.slen[2] = 16
  | .g2 => s.slen[0] = 32 ∧ s.slen[1] = 32 ∧ s.slen[2] = 16 ∧ s.slen[3] = 16
  | .f4 => s.slen[0] = 32 ∧ s.slen[1] = 32 ∧ s.slen[2] = 16 ∧ s.slen[3] = 1
  | .f5 => s.slen[0] = 32 ∧ s.slen[1] = 16 ∧ s.slen[2] = 16 ∧ s.slen[3] = 7 ∧ s.slen[4] = 7
  | .f6 => s.slen[0] = 16 ∧ s.slen[1] = 16 ∧ s.slen[2] = 16 ∧ s.slen[3] = 16 ∧ s.slen[4] = 3 ∧ s.slen[5] = 7
      ∧ s.slen[6] = 7
  | .h6 => s.slen[0] = 16 ∧ s.slen[1] = 4

/-- How many cipher requests a command makes when none fails (`60_exceptions.md` R252, `70_reset_and_hazards.md` R289). -/
def requestCount (i : Instr) (s : State) : Nat :=
  match i with
  | .subkeys => 1
  | .cmac => max 1 ((s.msgLen.toNat + 15) / 16) + 1
  | .ah => 1
  | .c1 => 2
  | .s1 => 1
  | .g2 => 6
  | .f4 => 6
  | .f5 => 13
  | .f6 => 6
  | .h6 => 2

/-- The key operand of a command (`70_reset_and_hazards.md` R289): slot 2 for `G2` and `F4`, slot 0 for the others; `F5` has none. -/
def keyOperand (i : Instr) (s : State) : Block := if i = .g2 ∨ i = .f4 then blockOf s 2 else blockOf s 0

/-- The keys of a command's requests, in order (R289). -/
def requestKeys (i : Instr) (s : State) : List Block :=
  if i = .f5 then
    List.replicate 3 Config.salt
      ++ List.replicate 10 (cmacTag Config.blockCipher Config.salt (bytesOf s 0 32))
  else List.replicate (requestCount i s) (keyOperand i s)

/-- `RESLEN` of a command that succeeds (`30_encoding.md` R93). -/
def resultLength : Instr → Nat
  | .subkeys => 32
  | .cmac => 16
  | .ah => 3
  | .c1 => 16
  | .s1 => 16
  | .g2 => 4
  | .f4 => 16
  | .f5 => 32
  | .f6 => 16
  | .h6 => 16

/-- The bits of slot byte `S[n][j]` a command reads (`30_encoding.md` R93, R94): none beyond the operand, bit 0 of `C1`'s flags. -/
def readMask (i : Instr) (n : Fin 8) (j : Nat) : Byte :=
  match (contract i).find? fun p => decide (p.1 = n) with
  | none => 0x00
  | some p => if p.2 ≤ j then 0x00 else if i = .c1 ∧ (n = 4 ∨ n = 6) then 0x01 else 0xff

/-- Two states give command `i` the same operands: the lengths of its slots, the bits it reads of them and, for `CMAC`,
`MSG_LEN` and the message bytes (`40_command_lifecycle.md` R132). -/
def sameOperands (i : Instr) (s t : State) : Prop :=
  (∀ p ∈ contract i, s.slen[p.1] = t.slen[p.1])
    ∧ (∀ (n : Fin 8) (j : Fin 32), s.slots[n][j] &&& readMask i n j.val = t.slots[n][j] &&& readMask i n j.val)
    ∧ (i = .cmac → s.msgLen = t.msgLen ∧ ∀ j < s.msgLen.toNat, s.msg.read j = t.msg.read j)

/-- What the host can see of a command's outcome (R132). -/
def sameOutcome (s t : State) : Prop :=
  s.phase = t.phase ∧ s.errcode = t.errcode ∧ s.reslen = t.reslen ∧ s.result = t.result

end Sys2Proof.Safety
end

