-- ==== Sys2Proof/Certificates/Slice0/Obligations.lean ====
section
/-! DEFINITION. The statements for the provers, from the numbered rules of the spec. A statement about what a command does is
made in `Safety.commandOutcome`: it holds for every state and for every sequence of cipher replies, and its parts say the
result, the errors, the requests and, through the record equalities of `ended` and `waiting`, the frame. -/

open Sys2Proof Sys2Proof.Machine Sys2Proof.Safety

/-! ### Encoding (`30_encoding.md`) -/

/-- The word of each command, written from the binary column of R91, decodes to that command. -/
def Obligations.CommandWordsDecode : Prop :=
  decode [0b00000001#8] = .ok (.subkeys, []) ∧ decode [0b00000010#8] = .ok (.cmac, [])
    ∧ decode [0b00010000#8] = .ok (.ah, []) ∧ decode [0b00010001#8] = .ok (.c1, [])
    ∧ decode [0b00010010#8] = .ok (.s1, []) ∧ decode [0b00010011#8] = .ok (.g2, [])
    ∧ decode [0b00100000#8] = .ok (.f4, []) ∧ decode [0b00100001#8] = .ok (.f5, [])
    ∧ decode [0b00100010#8] = .ok (.f6, []) ∧ decode [0b00100011#8] = .ok (.h6, [])

/-- Decoding and encoding agree in both directions, whatever bytes follow. -/
def Obligations.DecodeEncodeAgree : Prop :=
  (∀ (i : Instr) (rest : List Byte), decode (encode i ++ rest) = .ok (i, rest))
    ∧ ∀ (b : Byte) (i : Instr), decodeByte b = .ok i → encode i = [b]

/-- Decoding is total: the bytes that are no command are the 246 reserved ones of R92, each rejected under its own value. -/
def Obligations.ReservedBytesRejected : Prop :=
  (∀ b : Byte, decodeByte b = .error (.reservedOpcode b)
      ↔ b = 0x00 ∨ (0x03 ≤ b ∧ b ≤ 0x0F) ∨ (0x14 ≤ b ∧ b ≤ 0x1F) ∨ 0x24 ≤ b)
    ∧ ((List.range 256).filter fun n => (decodeByte (BitVec.ofNat 8 n)).toOption.isNone).length = 246

/-! ### Host transactions (`20_memory.md`, `40_command_lifecycle.md`) -/

/-- R120: the effect of a write, by case; nothing is raised, since a write always gives a state. -/
def Obligations.RegWriteByCase : Prop :=
  ∀ (s : State) (off : Offset) (v : Byte), Memory.wf s.msg →
    (s.phase = .busy → s.regWrite off v = s)
      ∧ (s.phase ≠ .busy →
        (off = 0x0000 → s.regWrite off v = accept v s)
          ∧ (off = 0x0004 → ∃ l, s.regWrite off v = { s with msgLen := l }
              ∧ l.extractLsb' 8 8 = v ∧ l.extractLsb' 0 8 = s.msgLen.extractLsb' 0 8)
          ∧ (off = 0x0005 → ∃ l, s.regWrite off v = { s with msgLen := l }
              ∧ l.extractLsb' 0 8 = v ∧ l.extractLsb' 8 8 = s.msgLen.extractLsb' 8 8)
          ∧ (∀ n : Fin 8, off.toNat = 0x0008 + n.val → s.regWrite off v = { s with slen := s.slen.set n v })
          ∧ (∀ (n : Fin 8) (j : Fin 32), off.toNat = 0x0100 + 32 * n.val + j.val →
              s.regWrite off v = { s with slots := s.slots.set n (s.slots[n].set j v) })
          ∧ (∀ j < Config.msgMax, off.toNat = 0x1000 + j →
              ∃ m, s.regWrite off v = { s with msg := m } ∧ m.read j = v ∧ ∀ k ≠ j, Memory.read m k = s.msg.read k)
          ∧ ((0x0001 ≤ off.toNat ∧ off.toNat ≤ 0x0003) ∨ (0x0006 ≤ off.toNat ∧ off.toNat ≤ 0x0007)
              ∨ (0x0010 ≤ off.toNat ∧ off.toNat ≤ 0x00FF) ∨ (0x0200 ≤ off.toNat ∧ off.toNat ≤ 0x0FFF)
              ∨ 0x1000 + Config.msgMax ≤ off.toNat → s.regWrite off v = s))

/-- R121: the byte a read returns, by case, in every phase; and the host's read changes no register. -/
def Obligations.RegReadByCase : Prop :=
  ∀ (s : State) (off : Offset),
    (off = 0x0001 → s.regRead off = statusByte s.phase)
      ∧ (off = 0x0002 → s.regRead off = s.errcode)
      ∧ (off = 0x0003 → s.regRead off = s.reslen)
      ∧ (off = 0x0004 → s.regRead off = s.msgLen.extractLsb' 8 8)
      ∧ (off = 0x0005 → s.regRead off = s.msgLen.extractLsb' 0 8)
      ∧ (∀ n : Fin 8, off.toNat = 0x0008 + n.val → s.regRead off = s.slen[n])
      ∧ (∀ j : Fin 32, off.toNat = 0x0020 + j.val → s.regRead off = s.result[j])
      ∧ (∀ (n : Fin 8) (j : Fin 32), off.toNat = 0x0100 + 32 * n.val + j.val → s.regRead off = s.slots[n][j])
      ∧ (∀ j < Config.msgMax, off.toNat = 0x1000 + j → s.regRead off = s.msg.read j)
      ∧ (off.toNat = 0 ∨ (0x0006 ≤ off.toNat ∧ off.toNat ≤ 0x0007) ∨ (0x0010 ≤ off.toNat ∧ off.toNat ≤ 0x001F)
          ∨ (0x0040 ≤ off.toNat ∧ off.toNat ≤ 0x00FF) ∨ (0x0200 ≤ off.toNat ∧ off.toNat ≤ 0x0FFF)
          ∨ 0x1000 + Config.msgMax ≤ off.toNat → s.regRead off = 0x00)
      ∧ (∀ rest, hostTurn { s with script := .rd off :: rest }
          = .next { s with script := rest, readLog := s.readLog ++ [(off, s.regRead off)] })

/-- R68: a reserved offset reads `0x00` and ignores writes, in every phase; the accesses go through, so no error is raised. -/
def Obligations.ReservedOffsetsInert : Prop :=
  ∀ (s : State) (off : Offset) (v : Byte),
    ((0x0006 ≤ off.toNat ∧ off.toNat ≤ 0x0007) ∨ (0x0010 ≤ off.toNat ∧ off.toNat ≤ 0x001F)
      ∨ (0x0040 ≤ off.toNat ∧ off.toNat ≤ 0x00FF) ∨ (0x0200 ≤ off.toNat ∧ off.toNat ≤ 0x0FFF)
      ∨ 0x1000 + Config.msgMax ≤ off.toNat) →
    s.regRead off = 0x00 ∧ s.regWrite off v = s
      ∧ (∀ rest, hostTurn { s with script := .wr off v :: rest } = .next { s with script := rest })
      ∧ (∀ rest, hostTurn { s with script := .rd off :: rest }
          = .next { s with script := rest, readLog := s.readLog ++ [(off, 0x00)] })

/-- R67: reads have no side effect; a write that is no acceptance leaves every other offset reading as before, and either reads
back the byte written or changes nothing. -/
def Obligations.AccessSideEffects : Prop :=
  (∀ (s t : State) (off : Offset) (rest : List HostStmt),
      s.script = .rd off :: rest → hostTurn s = .next t → sameRegisters t s)
    ∧ ∀ (s : State) (off : Offset) (v : Byte), Memory.wf s.msg →
      (s.phase ≠ .busy ∧ off = 0x0000 ∧ s.regWrite off v = accept v s)
        ∨ ((∀ off' ≠ off, (s.regWrite off v).regRead off' = s.regRead off')
            ∧ ((s.regWrite off v).regRead off = v ∨ s.regWrite off v = s)
            ∧ (s.regWrite off v).phase = s.phase ∧ (s.regWrite off v).op = s.op
            ∧ (s.regWrite off v).answered = s.answered ∧ (s.regWrite off v).requests = s.requests
            ∧ sameOutside (s.regWrite off v) s)

/-- R63: byte `i` of a field in slot `n` stands at `0x0100 + 32*n + i`, byte `i` of the message at `0x1000 + i`, byte `i` of the
result at `0x0020 + i`: ascending offsets in index order, so a field's most significant octet at its lowest offset. -/
def Obligations.FieldsAtAscendingOffsets : Prop :=
  ∀ s : State,
    (∀ (n : Fin 8) (len : Nat) (h : len ≤ 32) (i : Fin len),
        s.regRead (BitVec.ofNat 16 (0x0100 + 32 * n.val + i.val)) = (s.opnd n len h)[i])
      ∧ (∀ i (h : i < s.message.length), s.msgLen.toNat ≤ Config.msgMax →
        s.regRead (BitVec.ofNat 16 (0x1000 + i)) = s.message[i])
      ∧ (∀ i : Fin 32, s.regRead (BitVec.ofNat 16 (0x0020 + i.val)) = s.result[i])

/-- R64: `MSG_LEN = 256 * MSG_LEN_HI + MSG_LEN_LO`, the high byte at the lower offset; and so it is after the two writes, in
either order. -/
def Obligations.MsgLenHalves : Prop :=
  ∀ s : State,
    s.msgLen.toNat = 256 * (s.regRead 0x0004).toNat + (s.regRead 0x0005).toNat
      ∧ (s.phase ≠ .busy → ∀ hi lo : Byte,
          ((s.regWrite 0x0004 hi).regWrite 0x0005 lo).msgLen.toNat = 256 * hi.toNat + lo.toNat
            ∧ ((s.regWrite 0x0005 lo).regWrite 0x0004 hi).msgLen.toNat = 256 * hi.toNat + lo.toNat)

/-- The `STATUS` byte of each phase: one bit a phase, bits 7:3 zero, at most one bit set, no two phases alike. -/
def Obligations.StatusIsOneHot : Prop :=
  ∀ s : State,
    ((s.regRead 0x0001).getLsbD 0 = true ↔ s.phase = .busy)
      ∧ ((s.regRead 0x0001).getLsbD 1 = true ↔ s.phase = .done)
      ∧ ((s.regRead 0x0001).getLsbD 2 = true ↔ s.phase = .error)
      ∧ (∀ b, 3 ≤ b → (s.regRead 0x0001).getLsbD b = false)
      ∧ (s.regRead 0x0001 = 0x00 ↔ s.phase = .idle)

/-- R122: a write of any byte to `CMD` outside BUSY latches it and clears the outcome of the last command; operands stay, and
so do the other agents. The byte may be a reserved opcode. -/
def Obligations.CmdWriteAccepts : Prop :=
  ∀ (s : State) (v : Byte), s.phase ≠ .busy →
    let t := s.regWrite 0x0000 v
    t.op = v ∧ t.phase = .busy ∧ t.errcode = 0x00 ∧ t.reslen = 0x00 ∧ (∀ j : Fin 32, t.result[j] = 0x00)
      ∧ t.slots = s.slots ∧ t.slen = s.slen ∧ t.msg = s.msg ∧ t.msgLen = s.msgLen ∧ sameOutside t s

/-- Writes while BUSY are lost: the host's statement is done and nothing else changes, `CMD` writes included. -/
def Obligations.WritesWhileBusyLost : Prop :=
  ∀ (s : State) (off : Offset) (v : Byte) (rest : List HostStmt),
    s.phase = .busy → nextTurn s = .host → s.script = .wr off v :: rest →
    step s = .next { turnTaken s with script := rest }

/-- R66's refusal and nothing else: a step is refused exactly if it is the host's turn on an access whose width is not one byte;
every other step answers a next state, the turn of an agent with nothing to do included (the model's choice, log 17). The
statements whose width is not one byte are the wide accesses, at every offset and of every larger width (log 12). -/
def Obligations.OnlyWideAccessStops : Prop :=
  (∀ s : State,
    (step s = .refused .wideAccess
        ↔ nextTurn s = .host ∧ ∃ stmt rest, s.script = stmt :: rest ∧ stmt.width ≠ 1)
      ∧ (¬ (nextTurn s = .host ∧ ∃ stmt rest, s.script = stmt :: rest ∧ stmt.width ≠ 1) → ∃ t, step s = .next t))
    ∧ (∀ (off : Offset) (width : Nat), 2 ≤ width → (HostStmt.wide off (width - 2)).width = width)
    ∧ ∀ stmt : HostStmt, stmt.width ≠ 1 → ∃ off more, stmt = .wide off more

/-- `WAIT` reads `STATUS` and is done when bit 0 of it is clear; `READRES` reads `RESLEN` and goes on with that many result
bytes. -/
def Obligations.PollingStatements : Prop :=
  ∀ (s : State) (rest : List HostStmt),
    (s.script = .wait :: rest →
      hostTurn s = .next { s with
        script := if s.phase = .busy then s.script else rest
        readLog := s.readLog ++ [(0x0001, statusByte s.phase)] })
      ∧ (s.script = .readres :: rest →
        hostTurn s = .next { s with
          script := ((List.range s.reslen.toNat).map fun i => HostStmt.rd (BitVec.ofNat 16 (0x0020 + i))) ++ rest
          readLog := s.readLog ++ [(0x0003, s.reslen)] })

/-- `LOAD Sn, data`, run by the host outside BUSY with no other turn between (the default turn, log 7): the slot holds the
field, its `SLEN` the length, and no other register changes. -/
def Obligations.LoadWritesTheField : Prop :=
  ∀ (s : State) (n : Fin 8) (data : List Byte) (rest : List HostStmt),
    s.phase ≠ .busy → s.schedule = [] → data.length ≤ 32 →
    s.script = (Pseudo.load n data).expand ++ rest →
    ∃ slots : Vector (Bytes 32) 8,
      Host.Core.run Sys2Proof.core (data.length + 1) s
          = .next { s with script := rest, slots := slots, slen := s.slen.set n (BitVec.ofNat 8 data.length) }
        ∧ ∀ (m : Fin 8) (j : Fin 32),
          slots[m][j] = if m = n ∧ j.val < data.length then data.getD j.val 0x00 else s.slots[m][j]

/-! ### ByteOps (`41_byteops.md`) -/

/-- `xor16` is byte-wise; it cancels, has `ZERO16` as neutral block, commutes and associates. -/
def Obligations.Xor16IsBytewise : Prop :=
  (∀ (a b : Block) (i : Fin 16), (xor16 a b)[i] = a[i] ^^^ b[i])
    ∧ (∀ a : Block, xor16 a a = ZERO16 ∧ xor16 a ZERO16 = a)
    ∧ (∀ a b : Block, xor16 a b = xor16 b a)
    ∧ ∀ a b c : Block, xor16 (xor16 a b) c = xor16 a (xor16 b c)

/-- R151: the carry chain byte by byte, and the same as doubling modulo 2^128. -/
def Obligations.ShiftLeftDoubles : Prop :=
  ∀ b : Block,
    (∀ (i : Nat) (h : i < 15),
        (shiftLeftOneBit b)[i] = ((b[i] <<< 1) &&& 0xFF#8) ||| (b[i + 1] >>> 7))
      ∧ (shiftLeftOneBit b)[15] = (b[15] <<< 1) &&& 0xFF#8
      ∧ integer (shiftLeftOneBit b) = (2 * integer b) % 2 ^ 128
      ∧ (shiftLeftOneBit b)[15].getLsbD 0 = false

/-- R155: the test is on the top bit before the shift; as integers, doubling in the field the constant `0x87` reduces by. -/
def Obligations.DblReducesByRb : Prop :=
  ∀ b : Block,
    (b[0].getLsbD 7 = true → dbl b = xor16 (shiftLeftOneBit b) Rb)
      ∧ (b[0].getLsbD 7 = false → dbl b = shiftLeftOneBit b)
      ∧ integer (dbl b)
        = if 2 ^ 127 ≤ integer b then ((2 * integer b) % 2 ^ 128) ^^^ 0x87 else 2 * integer b

/-- R152: what `pad` puts at each index, on the precondition under which it has a meaning. -/
def Obligations.PadLayout : Prop :=
  ∀ (last : List Byte) (n : Nat) (h : n ≤ 16 ∧ n ≤ last.length) (i : Fin 16),
    (i.val < n → (pad last n h)[i] = last.getD i.val 0x00)
      ∧ (i.val = n → (pad last n h)[i] = 0x80)
      ∧ (n < i.val → (pad last n h)[i] = 0x00)

/-- R153, on the two forms in which the machine concatenates. A block made by `toBlock` of two fields has all of `A` in index
order, then all of `B`, and `A` is the more significant part of its integer. The message `f5Message` has the sum of its fields'
lengths, and each field's bytes, in index order, after all of the fields to its left. -/
def Obligations.ConcatenationOrder : Prop :=
  (∀ (n m : Nat) (a : Bytes n) (b : Bytes m) (h : (a.toList ++ b.toList).length = 16),
    (∀ i : Fin n, (toBlock (a.toList ++ b.toList) h)[i.val]? = some a[i])
      ∧ (∀ i : Fin m, (toBlock (a.toList ++ b.toList) h)[n + i.val]? = some b[i])
      ∧ integer (toBlock (a.toList ++ b.toList) h) = integer a * 256 ^ m + integer b)
    ∧ ∀ (counter : Byte) (n1 n2 : Bytes 16) (a1 a2 : Bytes 7),
      let m := f5Message counter n1 n2 a1 a2
      m.length = 1 + 4 + 16 + 16 + 7 + 7 + 2
        ∧ m[0]? = some counter
        ∧ (∀ i : Fin 4, m[1 + i.val]? = some keyIdBtle[i])
        ∧ (∀ i : Fin 16, m[1 + 4 + i.val]? = some n1[i])
        ∧ (∀ i : Fin 16, m[1 + 4 + 16 + i.val]? = some n2[i])
        ∧ (∀ i : Fin 7, m[1 + 4 + 16 + 16 + i.val]? = some a1[i])
        ∧ (∀ i : Fin 7, m[1 + 4 + 16 + 16 + 7 + i.val]? = some a2[i])
        ∧ ∀ i : Fin 2, m[1 + 4 + 16 + 16 + 7 + 7 + i.val]? = some length256[i]

/-- R154: the low bytes keep their order, and denote the residue modulo 2^(8k). -/
def Obligations.LowIsResidue : Prop :=
  ∀ (b : Block) (k : Nat) (h : k ≤ 16),
    (∀ i : Fin k, (low b k h)[i] = b[16 - k + i.val]'(by omega)) ∧ integer (low b k h) = integer b % 2 ^ (8 * k)

/-! ### CmacEngine (`42_cmac.md`) -/

/-- R171: one request, `(key, ZERO16)`; `K1` and `K2` from its reply, `K2` from the finished `K1`. For every cipher, every
sequence of replies. -/
def Obligations.DeriveSubkeysFunction : Prop :=
  ∀ (E : Block → Block → Block) (reply : Nat → Reply) (key : Block),
    (deriveSubkeys key).run E reply 0
      = runOutcome reply [⟨key, ZERO16⟩] (dbl (E key ZERO16), dbl (dbl (E key ZERO16)))

/-- R172: tag and request list of `cmac` are those of the reference, for every cipher, key, message of any length and
sequence of replies. -/
def Obligations.CmacFunction : Prop :=
  ∀ (E : Block → Block → Block) (reply : Nat → Reply) (key : Block) (message : List Byte),
    (cmac key message).run E reply 0 = runOutcome reply (cmacRequests E key message) (cmacTag E key message)

/-! ### The ten commands: `exec` answers a next state for every state, and which (R126 to R128 in each) -/

/-- R174, `SUBKEYS`. -/
def Obligations.SubkeysCommand : Prop :=
  ∀ s : State, ∃ t, exec .subkeys s = .next t ∧ agrees t (commandOutcome s (s.slen[0] = 16)
    [⟨blockOf s 0, ZERO16⟩]
    ((subkey1 Config.blockCipher (blockOf s 0)).toList ++ (subkey2 Config.blockCipher (blockOf s 0)).toList))

/-- R175, `CMAC`. -/
def Obligations.CmacCommand : Prop :=
  ∀ s : State, ∃ t, exec .cmac s = .next t ∧
    agrees t (commandOutcome s (s.slen[0] = 16 ∧ s.msgLen.toNat ≤ Config.msgMax)
      (cmacRequests Config.blockCipher (blockOf s 0) (messageOf s))
      (cmacTag Config.blockCipher (blockOf s 0) (messageOf s)).toList)

/-- R191, `AH`: `r'` is 13 zero bytes then `r`; the output is `e[13..15]`. -/
def Obligations.AhCommand : Prop :=
  ∀ s : State, ∃ t, exec .ah s = .next t ∧
    let r' : Block := Vector.ofFn fun j => if j.val < 13 then 0x00 else byteOf s 1 (j.val - 13)
    let e := Config.blockCipher (blockOf s 0) r'
    agrees t (commandOutcome s (s.slen[0] = 16 ∧ s.slen[1] = 3) [⟨blockOf s 0, r'⟩] [e[13], e[14], e[15]])

/-- R192, `C1`. -/
def Obligations.C1Command : Prop :=
  ∀ s : State, ∃ t, exec .c1 s = .next t ∧
    let b1 := xor16 (blockOf s 1) (c1P1 s)
    let b2 := xor16 (Config.blockCipher (blockOf s 0) b1) (c1P2 s)
    agrees t (commandOutcome s
      (s.slen[0] = 16 ∧ s.slen[1] = 16 ∧ s.slen[2] = 7 ∧ s.slen[3] = 7 ∧ s.slen[4] = 1 ∧ s.slen[5] = 6
        ∧ s.slen[6] = 1 ∧ s.slen[7] = 6)
      [⟨blockOf s 0, b1⟩, ⟨blockOf s 0, b2⟩] (Config.blockCipher (blockOf s 0) b2).toList)

/-- R193, `S1`: `r'` is `r1[8..15]` then `r2[8..15]`. -/
def Obligations.S1Command : Prop :=
  ∀ s : State, ∃ t, exec .s1 s = .next t ∧
    let r' : Block := Vector.ofFn fun j => if j.val < 8 then byteOf s 1 (8 + j.val) else byteOf s 2 j.val
    agrees t (commandOutcome s (s.slen[0] = 16 ∧ s.slen[1] = 16 ∧ s.slen[2] = 16) [⟨blockOf s 0, r'⟩]
      (Config.blockCipher (blockOf s 0) r').toList)

/-- R194, `G2`: `m[0..31] = u`, `m[32..63] = v`, `m[64..79] = y`; the output is `tag[12..15]`. -/
def Obligations.G2Command : Prop :=
  ∀ s : State, ∃ t, exec .g2 s = .next t ∧
    let m := (List.range 80).map fun i =>
      if i ≤ 31 then byteOf s 0 i else if i ≤ 63 then byteOf s 1 (i - 32) else byteOf s 3 (i - 64)
    let tag := cmacTag Config.blockCipher (blockOf s 2) m
    agrees t (commandOutcome s (s.slen[0] = 32 ∧ s.slen[1] = 32 ∧ s.slen[2] = 16 ∧ s.slen[3] = 16)
      (cmacRequests Config.blockCipher (blockOf s 2) m) [tag[12], tag[13], tag[14], tag[15]])

/-- R220, `F4`: `m[0..31] = u`, `m[32..63] = v`, `m[64] = z`. -/
def Obligations.F4Command : Prop :=
  ∀ s : State, ∃ t, exec .f4 s = .next t ∧
    let m := (List.range 65).map fun i =>
      if i ≤ 31 then byteOf s 0 i else if i ≤ 63 then byteOf s 1 (i - 32) else byteOf s 3 0
    agrees t (commandOutcome s (s.slen[0] = 32 ∧ s.slen[1] = 32 ∧ s.slen[2] = 16 ∧ s.slen[3] = 1)
      (cmacRequests Config.blockCipher (blockOf s 2) m) (cmacTag Config.blockCipher (blockOf s 2) m).toList)

/-- R222, `F5`: `T` under `SALT`, then `MacKey` and `LTK` under `T`. -/
def Obligations.F5Command : Prop :=
  ∀ s : State, ∃ t, exec .f5 s = .next t ∧
    let E := Config.blockCipher
    let w := bytesOf s 0 32
    let T := cmacTag E Config.salt w
    agrees t (commandOutcome s
      (s.slen[0] = 32 ∧ s.slen[1] = 16 ∧ s.slen[2] = 16 ∧ s.slen[3] = 7 ∧ s.slen[4] = 7)
      (cmacRequests E Config.salt w ++ cmacRequests E T (f5Layout s 0x00) ++ cmacRequests E T (f5Layout s 0x01))
      ((cmacTag E T (f5Layout s 0x00)).toList ++ (cmacTag E T (f5Layout s 0x01)).toList))

/-- R223, `F6`. -/
def Obligations.F6Command : Prop :=
  ∀ s : State, ∃ t, exec .f6 s = .next t ∧
    agrees t (commandOutcome s
      (s.slen[0] = 16 ∧ s.slen[1] = 16 ∧ s.slen[2] = 16 ∧ s.slen[3] = 16 ∧ s.slen[4] = 3 ∧ s.slen[5] = 7
        ∧ s.slen[6] = 7)
      (cmacRequests Config.blockCipher (blockOf s 0) (f6Layout s))
      (cmacTag Config.blockCipher (blockOf s 0) (f6Layout s)).toList)

/-- R224, `H6`. -/
def Obligations.H6Command : Prop :=
  ∀ s : State, ∃ t, exec .h6 s = .next t ∧
    agrees t (commandOutcome s (s.slen[0] = 16 ∧ s.slen[1] = 4)
      (cmacRequests Config.blockCipher (blockOf s 0) (bytesOf s 1 4))
      (cmacTag Config.blockCipher (blockOf s 0) (bytesOf s 1 4)).toList)

/-! ### All commands -/

/-- Every command completes: with its lengths right and every request answered `ok` it ends in DONE with an output of its
length, `LengthError` and `EncryptionFailure` aside. All of the next state is named; in it, that `op` is kept is the model's
choice (log 3), and so is what becomes of `answered`, `replies` and `drawn` (log 6). -/
def Obligations.ReliableCommandDelivers : Prop :=
  ∀ (i : Instr) (s : State), lengthsRight i s → (∀ k < requestCount i s, s.reply k = .ok) →
    ∃ reqs out, reqs.length = requestCount i s ∧ out.length = resultLength i
      ∧ exec i s = .next (delivered s reqs out)

/-- R251: a command ends in `LengthError`, with no request issued, exactly if one of the conditions of its row holds; a zero
`SLEN[0]` is one for every command. -/
def Obligations.LengthErrorExactly : Prop :=
  ∀ (i : Instr) (s t : State), s.errcode ≠ 0x01 → exec i s = .next t →
    (t.errcode = 0x01 ↔ ¬ lengthsRight i s)
      ∧ (t.errcode = 0x01 → t.phase = .error ∧ t.requests = [])
      ∧ (s.slen[0] = 0x00 → t.errcode = 0x01)

/-- Any request of a command that passes validation can fail (R252); then the command ends in `EncryptionFailure`, that request
the last one issued, and no result is left. All of the next state is named; in it, that `op` is kept is the model's choice
(log 3), and so is what becomes of `answered`, `replies` and `drawn` (log 6). -/
def Obligations.AnyRequestCanFail : Prop :=
  ∀ (i : Instr) (s : State) (k : Nat), lengthsRight i s → k < requestCount i s →
    (∀ j < k, s.reply j = .ok) → s.reply k = .fail →
    ∃ reqs, reqs.length = k + 1 ∧ exec i s = .next (failed s reqs 0x02)

/-- While the collaborator does not answer (the reply `silent`, log 2), the command stays BUSY and the host sees nothing
change; the request in flight is the last one issued, and the model's count of answered ones is those before it (log 6). -/
def Obligations.SilenceLeavesCommandBusy : Prop :=
  ∀ (i : Instr) (s : State) (k : Nat), lengthsRight i s → k < requestCount i s →
    (∀ j < k, s.reply j = .ok) → s.reply k = .silent →
    ∃ t, exec i s = .next t ∧ t.phase = s.phase ∧ sameRegisters t s ∧ t.answered = k ∧ t.requests.length = k + 1

/-- R289: how many requests each command makes and under which keys; none when validation fails, `i` when it fails at request
`i`. -/
def Obligations.RequestTable : Prop :=
  ∀ (i : Instr) (s t : State), exec i s = .next t →
    (¬ lengthsRight i s → t.requests = [])
      ∧ (lengthsRight i s → (∀ k < requestCount i s, s.reply k = .ok) →
          t.requests.length = requestCount i s ∧ t.requests.map (·.key) = requestKeys i s)
      ∧ (∀ k < requestCount i s, lengthsRight i s → (∀ j < k, s.reply j = .ok) → s.reply k = .fail →
          t.requests.length = k + 1 ∧ t.requests.map (·.key) = (requestKeys i s).take (k + 1))

/-- What a command leaves alone: the latched opcode (the model's choice, log 3) and the host with its record and the order of
turns; of the collaborator's coming replies it uses one for each new request (the model's own fields, log 6). -/
def Obligations.CommandFrame : Prop :=
  ∀ (i : Instr) (s t : State), exec i s = .next t →
    t.op = s.op ∧ t.script = s.script ∧ t.readLog = s.readLog ∧ t.schedule = s.schedule
      ∧ t.replies = s.replies.drop (t.requests.length - s.answered)
      ∧ t.drawn = s.drawn + (t.requests.length - s.answered)

/-- R132: with every request answered, two commands with the same opcode and the same operands have the same outcome; what the
command does not read (other slots, bytes beyond the operand, the message beyond its length, bits 7:1 of a flag) has no part
in it. -/
def Obligations.ReliableOutcomeDetermined : Prop :=
  ∀ (i : Instr) (s s' t t' : State), sameOperands i s s' →
    (∀ k < requestCount i s, s.reply k = .ok ∧ s'.reply k = .ok) →
    exec i s = .next t → exec i s' = .next t' → sameOutcome t t'

/-- The same with failing and missing replies: outcome and requests are a function of opcode, operands and replies. -/
def Obligations.OutcomeFromOperandsAndReplies : Prop :=
  ∀ (i : Instr) (s s' t t' : State), sameOperands i s s' → sameOutcome s s' → (∀ k, s.reply k = s'.reply k) →
    exec i s = .next t → exec i s' = .next t' → sameOutcome t t' ∧ t.requests = t'.requests

/-! ### Steps -/

/-- When it is the engine's turn in BUSY and the latched opcode is that of a command, the step is that command's meaning; and a
word placed by `withFetchWord` is what the next step runs (log 8). -/
def Obligations.StepRunsLatchedCommand : Prop :=
  (∀ (s : State) (i : Instr), s.phase = .busy → nextTurn s = .engine → decodeByte s.op = .ok i →
      step s = exec i (turnTaken s))
    ∧ ∀ (s : State) (i : Instr),
      step (s.withFetchWord 8 (opcode i).toNat) = exec i { accept (opcode i) s with schedule := s.schedule }

/-- R253: a reserved opcode ends in `IllegalCommand`, whatever the operand registers hold, without a cipher request. -/
def Obligations.ReservedOpcodeFails : Prop :=
  ∀ (s : State) (b : Byte), s.phase = .busy → nextTurn s = .engine →
    decodeByte s.op = .error (.reservedOpcode b) →
    ∃ t, step s = .next t ∧ agrees t (failed s [] 0x03) ∧ t.replies = s.replies

/-- R254: which one error a BUSY command ends with: `IllegalCommand` before `LengthError` before `EncryptionFailure`, the first
failing request deciding; a reset instead of the engine's turn leaves none. -/
def Obligations.ErrorPriority : Prop :=
  ∀ s t : State, s.phase = .busy → Inv s → step s = .next t →
    (nextTurn s = .engine →
      ((∃ r, decodeByte s.op = .error r) → t.errcode = 0x03)
        ∧ (∀ i, decodeByte s.op = .ok i → ¬ lengthsRight i s → t.errcode = 0x01)
        ∧ (∀ i, decodeByte s.op = .ok i → lengthsRight i s →
            (t.errcode = 0x02 ↔ ∃ k < requestCount i s, (∀ j < k, s.reply j = .ok) ∧ s.reply k = .fail)
              ∧ (t.errcode ≠ 0x02 → t.errcode = 0x00)))
      ∧ (nextTurn s = .reset → t.errcode = 0x00 ∧ t.phase = .idle)

/-- A step out of BUSY into ERROR: no result is offered, one of the three codes is recorded, all operand storage is zero. -/
def Obligations.FailedCommandOffersNothing : Prop :=
  ∀ s t : State, s.phase = .busy → step s = .next t → t.phase = .error →
    t.reslen = 0x00 ∧ (∀ j : Fin 32, t.result[j] = 0x00) ∧ t.errcode ∈ ([0x01, 0x02, 0x03] : List Byte)
      ∧ operandsZero t

/-- R128 and R285: every completion clears all operand storage, used or not; a command issued without reloading then fails with
`LengthError`. -/
def Obligations.OperandsDoNotSurvive : Prop :=
  ∀ s t : State, s.phase = .busy → step s = .next t → t.phase ≠ .busy →
    operandsZero t ∧ ∀ i : Instr, ∃ u, exec i t = .next u ∧ u.phase = .error ∧ u.errcode = 0x01

/-- R129: between acceptance and completion no register the host can read changes, and a `CMD` write is not queued. -/
def Obligations.NothingChangesWhileBusy : Prop :=
  ∀ s t : State, s.phase = .busy → step s = .next t → t.phase = .busy →
    sameRegisters t s ∧ t.op = s.op

/-- R130: BUSY is left by completion, on the engine's turn, or by reset; no host transaction ends a command. -/
def Obligations.OnlyCompletionOrResetEndsBusy : Prop :=
  ∀ s t : State, s.phase = .busy → step s = .next t → t.phase ≠ .busy →
    (nextTurn s = .engine ∧ (t.phase = .done ∨ t.phase = .error)) ∨ (nextTurn s = .reset ∧ t.phase = .idle)

/-- Outside BUSY the outcome of the last command stays as it is until the next acceptance or reset: loading operands, reading
and every other turn leave it. -/
def Obligations.OutcomePersists : Prop :=
  ∀ s t : State, s.phase ≠ .busy → step s = .next t →
    sameOutcome t s
      ∨ (nextTurn s = .host
          ∧ ∃ v rest, s.script = .wr 0x0000 v :: rest ∧ t = accept v { turnTaken s with script := rest })
      ∨ (nextTurn s = .reset ∧ t = resetEvent (turnTaken s))

/-- R257: phase ERROR is left by the next write to `CMD`, which clears `ERRCODE`, or by reset; reading does not clear it and the
engine retries nothing. -/
def Obligations.ErrorLeftByAcceptanceOrReset : Prop :=
  ∀ s t : State, s.phase = .error → step s = .next t →
    (t.phase = .error ∧ t.errcode = s.errcode)
      ∨ (nextTurn s = .host ∧ (∃ v rest, s.script = .wr 0x0000 v :: rest ∧ t.op = v) ∧ t.phase = .busy
          ∧ t.errcode = 0x00)
      ∨ (nextTurn s = .reset ∧ t.phase = .idle ∧ t.errcode = 0x00)

/-- An operand register changes only by the host's write to its own offset, or to zero by a completion or a reset. -/
def Obligations.OperandsChangeOnlyByTheHost : Prop :=
  ∀ (s t : State) (off : Offset), Inv s → step s = .next t →
    ((0x0004 ≤ off.toNat ∧ off.toNat ≤ 0x0005) ∨ (0x0008 ≤ off.toNat ∧ off.toNat ≤ 0x000F)
      ∨ (0x0100 ≤ off.toNat ∧ off.toNat ≤ 0x01FF) ∨ 0x1000 ≤ off.toNat) →
    t.regRead off = s.regRead off
      ∨ (nextTurn s = .host ∧ s.phase ≠ .busy ∧ ∃ v rest, s.script = .wr off v :: rest ∧ t.regRead off = v)
      ∨ (t.regRead off = 0x00 ∧ ((s.phase = .busy ∧ nextTurn s = .engine ∧ t.phase ≠ .busy) ∨ nextTurn s = .reset))

/-- The life of a command, in two steps when no other turn is between (the default turn, log 7): the host's `CMD` write
accepts it, and then the engine runs it on the operands as they stood. -/
def Obligations.CommandLifeInTwoSteps : Prop :=
  ∀ (s : State) (i : Instr) (rest : List HostStmt),
    s.phase ≠ .busy → s.schedule = [] → s.script = .wr 0x0000 (opcode i) :: rest →
    step s = .next (accept (opcode i) { s with script := rest })
      ∧ step (accept (opcode i) { s with script := rest }) = exec i (accept (opcode i) { s with script := rest })

/-- A command completes if the collaborator answers (R133's assumption; the turns are the default ones, log 7): after `m`
turns without an answer and with an answer, `ok` or `fail`, to every request it still has to make, BUSY ends within `m + 1`
steps. -/
def Obligations.AnsweredCommandCompletes : Prop :=
  ∀ (m : Nat) (answers : List Reply) (s : State),
    s.phase = .busy → s.schedule = [] → s.replies = List.replicate m .silent ++ answers →
    (∀ r ∈ answers, r ≠ .silent) →
    (∀ i, decodeByte s.op = .ok i → requestCount i s ≤ s.answered + answers.length) →
    ∃ n ≤ m + 1, ∃ t, Host.Core.run Sys2Proof.core n s = .next t ∧ (t.phase = .done ∨ t.phase = .error)

/-! ### Reset and invariants -/

/-- R36: the reset state, register by register and as the host reads it; and its operand storage is that after any completion. -/
def Obligations.ResetState : Prop :=
  (∀ off : Offset, State.reset.regRead off = 0x00)
    ∧ operandsZero State.reset ∧ State.reset.phase = .idle ∧ State.reset.errcode = 0x00
    ∧ State.reset.reslen = 0x00 ∧ (∀ j : Fin 32, State.reset.result[j] = 0x00)
    ∧ ∀ s t : State, s.phase = .busy → step s = .next t → t.phase ≠ .busy →
      t.slots = State.reset.slots ∧ t.slen = State.reset.slen ∧ t.msg = State.reset.msg
        ∧ t.msgLen = State.reset.msgLen

/-- The reset event, at any point, puts the engine in its reset state and abandons a command (R280, R281); no completion
follows of it, and a late reply has no effect. No other step leads to IDLE, and nothing else ends a command whose next request
is not answered (the reply `silent` is the model's form, log 2). That the other agents keep their state is the model's choice
(log 9), and so is the count `answered` (log 6). -/
def Obligations.ResetAbandonsCommand : Prop :=
  (∀ s : State, nextTurn s = .reset →
    ∃ t, step s = .next t ∧ agrees t State.reset ∧ t.answered = 0 ∧ sameOutside t (turnTaken s)
      ∧ engineTurn t = .next t ∧ takeTurn .strayReply t = .next t)
    ∧ (∀ s t : State, step s = .next t → t.phase = .idle → s.phase = .idle ∨ nextTurn s = .reset)
    ∧ ∀ (s t : State) (i : Instr) (k : Nat), s.phase = .busy → decodeByte s.op = .ok i → lengthsRight i s →
      k < requestCount i s → (∀ j < k, s.reply j = .ok) → s.reply k = .silent →
      step s = .next t → t.phase ≠ .busy → nextTurn s = .reset

/-- The invariant holds right after reset. -/
def Obligations.ResetMeetsInv : Prop := Inv State.reset

/-- The invariant is kept by every step: the status registers stay consistent (R27 (b) to (d), R28, R29), the message buffer
keeps its canonical form inside `MSG_MAX` bytes, and no request is under way outside BUSY. -/
def Obligations.StepKeepsInv : Prop :=
  ∀ s t : State, Inv s → step s = .next t → Inv t
end

