-- ==== Sys2Proof/Laws/Port.lean ====
section
/-! SUPPORT. The cipher port: how sequencing acts on a program's value, requests and run, and the one lemma that says what a run
is for every sequence of replies. -/

namespace Sys2Proof.Machine

open Sys2Proof.Safety

@[simp] theorem Prog.bind_done {α β : Type} (a : α) (f : α → Prog β) : (Prog.done a).bind f = f a := rfl

@[simp] theorem Prog.bind_ask {α β : Type} (key block : Block) (next : Block → Prog α) (f : α → Prog β) :
    (Prog.ask key block next).bind f = .ask key block fun c => (next c).bind f := rfl

@[simp] theorem Prog.value_done {α : Type} (E : Block → Block → Block) (a : α) : (Prog.done a).value E = a := rfl

@[simp] theorem Prog.value_ask {α : Type} (E : Block → Block → Block) (key block : Block) (next : Block → Prog α) :
    (Prog.ask key block next).value E = (next (E key block)).value E := rfl

@[simp] theorem Prog.requests_done {α : Type} (E : Block → Block → Block) (a : α) :
    (Prog.done a).requests E = [] := rfl

@[simp] theorem Prog.requests_ask {α : Type} (E : Block → Block → Block) (key block : Block)
    (next : Block → Prog α) :
    (Prog.ask key block next).requests E = ⟨key, block⟩ :: (next (E key block)).requests E := rfl

/-- The value of `p` then `f`. -/
@[simp] theorem Prog.value_bind {α β : Type} (E : Block → Block → Block) (p : Prog α) (f : α → Prog β) :
    (p.bind f).value E = (f (p.value E)).value E := by
  induction p with
  | done a => rfl
  | ask key block next ih => exact ih _

/-- The requests of `p` then `f`: those of `p`, then those of `f`. -/
@[simp] theorem Prog.requests_bind {α β : Type} (E : Block → Block → Block) (p : Prog α) (f : α → Prog β) :
    (p.bind f).requests E = p.requests E ++ (f (p.value E)).requests E := by
  induction p with
  | done a => rfl
  | ask key block next ih => simp [ih]

@[simp] theorem Prog.value_cipher (E : Block → Block → Block) (key block : Block) :
    (Prog.cipher key block).value E = E key block := rfl

@[simp] theorem Prog.requests_cipher (E : Block → Block → Block) (key block : Block) :
    (Prog.cipher key block).requests E = [⟨key, block⟩] := rfl

@[simp] theorem firstNotOk_zero (reply : Nat → Reply) : firstNotOk reply 0 = none := rfl

/-- The first request decides, or else the rest do. -/
theorem firstNotOk_succ (reply : Nat → Reply) (m : Nat) :
    firstNotOk reply (m + 1)
      = if reply 0 = .ok then (firstNotOk (fun j => reply (j + 1)) m).map (· + 1) else some 0 := by
  unfold firstNotOk
  rw [List.range_succ_eq_map, List.find?_cons]
  by_cases h : reply 0 = .ok
  · simp only [h, ne_eq, not_true_eq_false, decide_false, List.find?_map, if_true]
    rfl
  · simp [h]

/-- Where the first reply that is not `ok` stands. -/
theorem firstNotOk_eq_some {reply : Nat → Reply} {m k : Nat} :
    firstNotOk reply m = some k ↔ k < m ∧ reply k ≠ .ok ∧ ∀ j < k, reply j = .ok := by
  unfold firstNotOk
  rw [List.find?_range_eq_some]
  simp only [decide_eq_true_eq, List.mem_range, Bool.not_eq_true', decide_eq_false_iff_not, ne_eq, not_not]
  tauto

/-- Every reply is `ok`. -/
theorem firstNotOk_eq_none {reply : Nat → Reply} {m : Nat} :
    firstNotOk reply m = none ↔ ∀ k < m, reply k = .ok := by
  unfold firstNotOk
  simp [List.find?_eq_none]

/-- Everything a run can do: all its requests are answered `ok` and it ends with its value, or it stops at the first request
that is not, having issued the requests up to that one. -/
theorem Prog.run_eq {α : Type} (E : Block → Block → Block) (reply : Nat → Reply) (p : Prog α) (k : Nat) :
    p.run E reply k
      = match firstNotOk (fun j => reply (k + j)) (p.requests E).length with
        | none => (p.requests E, .done (p.value E))
        | some j => ((p.requests E).take (j + 1), if reply (k + j) = .silent then .waiting else .failed) := by
  induction p generalizing k with
  | done a => rfl
  | ask key block next ih =>
    rw [Prog.requests_ask, List.length_cons, firstNotOk_succ, Prog.value_ask]
    unfold Prog.run
    cases h : reply k with
    | ok =>
      have hs : (fun j => reply (k + (j + 1))) = fun j => reply (k + 1 + j) :=
        funext fun j => congrArg reply (by omega)
      simp only [if_true, ih, hs]
      cases firstNotOk (fun j => reply (k + 1 + j)) ((next (E key block)).requests E).length with
      | none => rfl
      | some j => simp [Nat.add_comm j 1, ← Nat.add_assoc]
    | fail => simp [h]
    | silent => simp [h]

end Sys2Proof.Machine
end

