-- ==== Sys2Proof/Laws/State.lean ====
section
/-! SUPPORT. What each shared operation does to each field of the state: one lemma per field per update, true by `rfl`. -/

namespace Sys2Proof.Machine

/-! ### `accept` -/

@[simp] theorem accept_slots (v : Byte) (s : State) : (accept v s).slots = s.slots := rfl
@[simp] theorem accept_slen (v : Byte) (s : State) : (accept v s).slen = s.slen := rfl
@[simp] theorem accept_msg (v : Byte) (s : State) : (accept v s).msg = s.msg := rfl
@[simp] theorem accept_msgLen (v : Byte) (s : State) : (accept v s).msgLen = s.msgLen := rfl
@[simp] theorem accept_phase (v : Byte) (s : State) : (accept v s).phase = .busy := rfl
@[simp] theorem accept_errcode (v : Byte) (s : State) : (accept v s).errcode = 0x00 := rfl
@[simp] theorem accept_reslen (v : Byte) (s : State) : (accept v s).reslen = 0x00 := rfl
@[simp] theorem accept_result (v : Byte) (s : State) : (accept v s).result = zeroBytes 32 := rfl
@[simp] theorem accept_op (v : Byte) (s : State) : (accept v s).op = v := rfl
@[simp] theorem accept_answered (v : Byte) (s : State) : (accept v s).answered = 0 := rfl
@[simp] theorem accept_requests (v : Byte) (s : State) : (accept v s).requests = [] := rfl
@[simp] theorem accept_replies (v : Byte) (s : State) : (accept v s).replies = s.replies := rfl
@[simp] theorem accept_drawn (v : Byte) (s : State) : (accept v s).drawn = s.drawn := rfl
@[simp] theorem accept_script (v : Byte) (s : State) : (accept v s).script = s.script := rfl
@[simp] theorem accept_readLog (v : Byte) (s : State) : (accept v s).readLog = s.readLog := rfl
@[simp] theorem accept_schedule (v : Byte) (s : State) : (accept v s).schedule = s.schedule := rfl

/-! ### `zeroize` -/

@[simp] theorem zeroize_slots (s : State) : (zeroize s).slots = Vector.replicate 8 (zeroBytes 32) := rfl
@[simp] theorem zeroize_slen (s : State) : (zeroize s).slen = zeroBytes 8 := rfl
@[simp] theorem zeroize_msg (s : State) : (zeroize s).msg = [] := rfl
@[simp] theorem zeroize_msgLen (s : State) : (zeroize s).msgLen = 0 := rfl
@[simp] theorem zeroize_phase (s : State) : (zeroize s).phase = s.phase := rfl
@[simp] theorem zeroize_errcode (s : State) : (zeroize s).errcode = s.errcode := rfl
@[simp] theorem zeroize_reslen (s : State) : (zeroize s).reslen = s.reslen := rfl
@[simp] theorem zeroize_result (s : State) : (zeroize s).result = s.result := rfl
@[simp] theorem zeroize_op (s : State) : (zeroize s).op = s.op := rfl
@[simp] theorem zeroize_answered (s : State) : (zeroize s).answered = s.answered := rfl
@[simp] theorem zeroize_requests (s : State) : (zeroize s).requests = s.requests := rfl
@[simp] theorem zeroize_replies (s : State) : (zeroize s).replies = s.replies := rfl
@[simp] theorem zeroize_drawn (s : State) : (zeroize s).drawn = s.drawn := rfl
@[simp] theorem zeroize_script (s : State) : (zeroize s).script = s.script := rfl
@[simp] theorem zeroize_readLog (s : State) : (zeroize s).readLog = s.readLog := rfl
@[simp] theorem zeroize_schedule (s : State) : (zeroize s).schedule = s.schedule := rfl

/-! ### `completeOk` -/

@[simp] theorem completeOk_slots (out : List Byte) (s : State) : (completeOk out s).slots = Vector.replicate 8 (zeroBytes 32) := rfl
@[simp] theorem completeOk_slen (out : List Byte) (s : State) : (completeOk out s).slen = zeroBytes 8 := rfl
@[simp] theorem completeOk_msg (out : List Byte) (s : State) : (completeOk out s).msg = [] := rfl
@[simp] theorem completeOk_msgLen (out : List Byte) (s : State) : (completeOk out s).msgLen = 0 := rfl
@[simp] theorem completeOk_phase (out : List Byte) (s : State) : (completeOk out s).phase = .done := rfl
@[simp] theorem completeOk_errcode (out : List Byte) (s : State) : (completeOk out s).errcode = 0x00 := rfl
@[simp] theorem completeOk_reslen (out : List Byte) (s : State) : (completeOk out s).reslen = BitVec.ofNat 8 out.length := rfl
@[simp] theorem completeOk_result (out : List Byte) (s : State) : (completeOk out s).result = resultOf out := rfl
@[simp] theorem completeOk_op (out : List Byte) (s : State) : (completeOk out s).op = s.op := rfl
@[simp] theorem completeOk_answered (out : List Byte) (s : State) : (completeOk out s).answered = 0 := rfl
@[simp] theorem completeOk_requests (out : List Byte) (s : State) : (completeOk out s).requests = s.requests := rfl
@[simp] theorem completeOk_replies (out : List Byte) (s : State) : (completeOk out s).replies = s.replies := rfl
@[simp] theorem completeOk_drawn (out : List Byte) (s : State) : (completeOk out s).drawn = s.drawn := rfl
@[simp] theorem completeOk_script (out : List Byte) (s : State) : (completeOk out s).script = s.script := rfl
@[simp] theorem completeOk_readLog (out : List Byte) (s : State) : (completeOk out s).readLog = s.readLog := rfl
@[simp] theorem completeOk_schedule (out : List Byte) (s : State) : (completeOk out s).schedule = s.schedule := rfl

/-! ### `completeErr` -/

@[simp] theorem completeErr_slots (e : CmdError) (s : State) : (completeErr e s).slots = Vector.replicate 8 (zeroBytes 32) := rfl
@[simp] theorem completeErr_slen (e : CmdError) (s : State) : (completeErr e s).slen = zeroBytes 8 := rfl
@[simp] theorem completeErr_msg (e : CmdError) (s : State) : (completeErr e s).msg = [] := rfl
@[simp] theorem completeErr_msgLen (e : CmdError) (s : State) : (completeErr e s).msgLen = 0 := rfl
@[simp] theorem completeErr_phase (e : CmdError) (s : State) : (completeErr e s).phase = .error := rfl
@[simp] theorem completeErr_errcode (e : CmdError) (s : State) : (completeErr e s).errcode = e.code := rfl
@[simp] theorem completeErr_reslen (e : CmdError) (s : State) : (completeErr e s).reslen = 0x00 := rfl
@[simp] theorem completeErr_result (e : CmdError) (s : State) : (completeErr e s).result = zeroBytes 32 := rfl
@[simp] theorem completeErr_op (e : CmdError) (s : State) : (completeErr e s).op = s.op := rfl
@[simp] theorem completeErr_answered (e : CmdError) (s : State) : (completeErr e s).answered = 0 := rfl
@[simp] theorem completeErr_requests (e : CmdError) (s : State) : (completeErr e s).requests = s.requests := rfl
@[simp] theorem completeErr_replies (e : CmdError) (s : State) : (completeErr e s).replies = s.replies := rfl
@[simp] theorem completeErr_drawn (e : CmdError) (s : State) : (completeErr e s).drawn = s.drawn := rfl
@[simp] theorem completeErr_script (e : CmdError) (s : State) : (completeErr e s).script = s.script := rfl
@[simp] theorem completeErr_readLog (e : CmdError) (s : State) : (completeErr e s).readLog = s.readLog := rfl
@[simp] theorem completeErr_schedule (e : CmdError) (s : State) : (completeErr e s).schedule = s.schedule := rfl

/-! ### `resetEvent` -/

@[simp] theorem resetEvent_slots (s : State) : (resetEvent s).slots = State.reset.slots := rfl
@[simp] theorem resetEvent_slen (s : State) : (resetEvent s).slen = State.reset.slen := rfl
@[simp] theorem resetEvent_msg (s : State) : (resetEvent s).msg = State.reset.msg := rfl
@[simp] theorem resetEvent_msgLen (s : State) : (resetEvent s).msgLen = State.reset.msgLen := rfl
@[simp] theorem resetEvent_phase (s : State) : (resetEvent s).phase = State.reset.phase := rfl
@[simp] theorem resetEvent_errcode (s : State) : (resetEvent s).errcode = State.reset.errcode := rfl
@[simp] theorem resetEvent_reslen (s : State) : (resetEvent s).reslen = State.reset.reslen := rfl
@[simp] theorem resetEvent_result (s : State) : (resetEvent s).result = State.reset.result := rfl
@[simp] theorem resetEvent_op (s : State) : (resetEvent s).op = State.reset.op := rfl
@[simp] theorem resetEvent_answered (s : State) : (resetEvent s).answered = State.reset.answered := rfl
@[simp] theorem resetEvent_requests (s : State) : (resetEvent s).requests = State.reset.requests := rfl
@[simp] theorem resetEvent_replies (s : State) : (resetEvent s).replies = s.replies := rfl
@[simp] theorem resetEvent_drawn (s : State) : (resetEvent s).drawn = s.drawn := rfl
@[simp] theorem resetEvent_script (s : State) : (resetEvent s).script = s.script := rfl
@[simp] theorem resetEvent_readLog (s : State) : (resetEvent s).readLog = s.readLog := rfl
@[simp] theorem resetEvent_schedule (s : State) : (resetEvent s).schedule = s.schedule := rfl

/-! ### `afterRequests` -/

@[simp] theorem afterRequests_slots (reqs : List Request) (s : State) : (afterRequests reqs s).slots = s.slots := rfl
@[simp] theorem afterRequests_slen (reqs : List Request) (s : State) : (afterRequests reqs s).slen = s.slen := rfl
@[simp] theorem afterRequests_msg (reqs : List Request) (s : State) : (afterRequests reqs s).msg = s.msg := rfl
@[simp] theorem afterRequests_msgLen (reqs : List Request) (s : State) : (afterRequests reqs s).msgLen = s.msgLen := rfl
@[simp] theorem afterRequests_phase (reqs : List Request) (s : State) : (afterRequests reqs s).phase = s.phase := rfl
@[simp] theorem afterRequests_errcode (reqs : List Request) (s : State) : (afterRequests reqs s).errcode = s.errcode := rfl
@[simp] theorem afterRequests_reslen (reqs : List Request) (s : State) : (afterRequests reqs s).reslen = s.reslen := rfl
@[simp] theorem afterRequests_result (reqs : List Request) (s : State) : (afterRequests reqs s).result = s.result := rfl
@[simp] theorem afterRequests_op (reqs : List Request) (s : State) : (afterRequests reqs s).op = s.op := rfl
@[simp] theorem afterRequests_answered (reqs : List Request) (s : State) : (afterRequests reqs s).answered = s.answered := rfl
@[simp] theorem afterRequests_requests (reqs : List Request) (s : State) : (afterRequests reqs s).requests = reqs := rfl
@[simp] theorem afterRequests_replies (reqs : List Request) (s : State) : (afterRequests reqs s).replies = s.replies.drop (reqs.length - s.answered) := rfl
@[simp] theorem afterRequests_drawn (reqs : List Request) (s : State) : (afterRequests reqs s).drawn = s.drawn + (reqs.length - s.answered) := rfl
@[simp] theorem afterRequests_script (reqs : List Request) (s : State) : (afterRequests reqs s).script = s.script := rfl
@[simp] theorem afterRequests_readLog (reqs : List Request) (s : State) : (afterRequests reqs s).readLog = s.readLog := rfl
@[simp] theorem afterRequests_schedule (reqs : List Request) (s : State) : (afterRequests reqs s).schedule = s.schedule := rfl

/-! ### `awaitReply` -/

@[simp] theorem awaitReply_slots (reqs : List Request) (s : State) : (awaitReply reqs s).slots = s.slots := rfl
@[simp] theorem awaitReply_slen (reqs : List Request) (s : State) : (awaitReply reqs s).slen = s.slen := rfl
@[simp] theorem awaitReply_msg (reqs : List Request) (s : State) : (awaitReply reqs s).msg = s.msg := rfl
@[simp] theorem awaitReply_msgLen (reqs : List Request) (s : State) : (awaitReply reqs s).msgLen = s.msgLen := rfl
@[simp] theorem awaitReply_phase (reqs : List Request) (s : State) : (awaitReply reqs s).phase = s.phase := rfl
@[simp] theorem awaitReply_errcode (reqs : List Request) (s : State) : (awaitReply reqs s).errcode = s.errcode := rfl
@[simp] theorem awaitReply_reslen (reqs : List Request) (s : State) : (awaitReply reqs s).reslen = s.reslen := rfl
@[simp] theorem awaitReply_result (reqs : List Request) (s : State) : (awaitReply reqs s).result = s.result := rfl
@[simp] theorem awaitReply_op (reqs : List Request) (s : State) : (awaitReply reqs s).op = s.op := rfl
@[simp] theorem awaitReply_answered (reqs : List Request) (s : State) : (awaitReply reqs s).answered = reqs.length - 1 := rfl
@[simp] theorem awaitReply_requests (reqs : List Request) (s : State) : (awaitReply reqs s).requests = reqs := rfl
@[simp] theorem awaitReply_replies (reqs : List Request) (s : State) : (awaitReply reqs s).replies = s.replies.drop (reqs.length - s.answered) := rfl
@[simp] theorem awaitReply_drawn (reqs : List Request) (s : State) : (awaitReply reqs s).drawn = s.drawn + (reqs.length - s.answered) := rfl
@[simp] theorem awaitReply_script (reqs : List Request) (s : State) : (awaitReply reqs s).script = s.script := rfl
@[simp] theorem awaitReply_readLog (reqs : List Request) (s : State) : (awaitReply reqs s).readLog = s.readLog := rfl
@[simp] theorem awaitReply_schedule (reqs : List Request) (s : State) : (awaitReply reqs s).schedule = s.schedule := rfl

/-! ### `hostRead` -/

@[simp] theorem hostRead_slots (off : Offset) (s : State) : (hostRead off s).slots = s.slots := rfl
@[simp] theorem hostRead_slen (off : Offset) (s : State) : (hostRead off s).slen = s.slen := rfl
@[simp] theorem hostRead_msg (off : Offset) (s : State) : (hostRead off s).msg = s.msg := rfl
@[simp] theorem hostRead_msgLen (off : Offset) (s : State) : (hostRead off s).msgLen = s.msgLen := rfl
@[simp] theorem hostRead_phase (off : Offset) (s : State) : (hostRead off s).phase = s.phase := rfl
@[simp] theorem hostRead_errcode (off : Offset) (s : State) : (hostRead off s).errcode = s.errcode := rfl
@[simp] theorem hostRead_reslen (off : Offset) (s : State) : (hostRead off s).reslen = s.reslen := rfl
@[simp] theorem hostRead_result (off : Offset) (s : State) : (hostRead off s).result = s.result := rfl
@[simp] theorem hostRead_op (off : Offset) (s : State) : (hostRead off s).op = s.op := rfl
@[simp] theorem hostRead_answered (off : Offset) (s : State) : (hostRead off s).answered = s.answered := rfl
@[simp] theorem hostRead_requests (off : Offset) (s : State) : (hostRead off s).requests = s.requests := rfl
@[simp] theorem hostRead_replies (off : Offset) (s : State) : (hostRead off s).replies = s.replies := rfl
@[simp] theorem hostRead_drawn (off : Offset) (s : State) : (hostRead off s).drawn = s.drawn := rfl
@[simp] theorem hostRead_script (off : Offset) (s : State) : (hostRead off s).script = s.script := rfl
@[simp] theorem hostRead_readLog (off : Offset) (s : State) : (hostRead off s).readLog = s.readLog ++ [(off, s.regRead off)] := rfl
@[simp] theorem hostRead_schedule (off : Offset) (s : State) : (hostRead off s).schedule = s.schedule := rfl

/-! ### The reset state (`10_state.md` R36) -/

@[simp] theorem reset_slots : State.reset.slots = Vector.replicate 8 (zeroBytes 32) := rfl
@[simp] theorem reset_slen : State.reset.slen = zeroBytes 8 := rfl
@[simp] theorem reset_msg : State.reset.msg = [] := rfl
@[simp] theorem reset_msgLen : State.reset.msgLen = 0 := rfl
@[simp] theorem reset_phase : State.reset.phase = .idle := rfl
@[simp] theorem reset_errcode : State.reset.errcode = 0x00 := rfl
@[simp] theorem reset_reslen : State.reset.reslen = 0x00 := rfl
@[simp] theorem reset_result : State.reset.result = zeroBytes 32 := rfl
@[simp] theorem reset_op : State.reset.op = 0x00 := rfl
@[simp] theorem reset_answered : State.reset.answered = 0 := rfl
@[simp] theorem reset_requests : State.reset.requests = [] := rfl
@[simp] theorem reset_replies : State.reset.replies = [] := rfl
@[simp] theorem reset_drawn : State.reset.drawn = 0 := rfl
@[simp] theorem reset_script : State.reset.script = [] := rfl
@[simp] theorem reset_readLog : State.reset.readLog = [] := rfl
@[simp] theorem reset_schedule : State.reset.schedule = [] := rfl

end Sys2Proof.Machine
end

