-- ==== Sys2Proof/Laws/Commands.lean ====
section
/-! SUPPORT. The commands: each one's validation and pseudocode by name, everything `exec` can answer, and the operand contract
against the table of `60_exceptions.md` R251. -/

namespace Sys2Proof.Machine

open Sys2Proof.Safety

/-- R123 step 2 of a command. -/
def validOf (i : Instr) (s : State) : Bool :=
  match i with
  | .cmac => lengthsOk (contract .cmac) s && decide (s.msgLen.toNat ≤ Config.msgMax)
  | i => lengthsOk (contract i) s

/-- The pseudocode of a command. -/
def bodyOf (i : Instr) (s : State) : Prog (List Byte) :=
  match i with
  | .subkeys => progSubkeys s
  | .cmac => progCmac s
  | .ah => progAh s
  | .c1 => progC1 s
  | .s1 => progS1 s
  | .g2 => progG2 s
  | .f4 => progF4 s
  | .f5 => progF5 Config.salt s
  | .f6 => progF6 s
  | .h6 => progH6 s

/-- Every meaning is `runCommand` of its validation and pseudocode. -/
theorem exec_eq_runCommand (i : Instr) (s : State) : exec i s = runCommand (validOf i s) (bodyOf i s) s := by
  cases i <;> rfl

/-- The validation of a command is R251's table. -/
theorem validOf_iff (i : Instr) (s : State) : validOf i s = true ↔ lengthsRight i s := by
  cases i <;> simp [validOf, lengthsOk, contract, lengthsRight]

/-- A command that fails validation. -/
theorem exec_invalid {i : Instr} {s : State} (h : ¬ lengthsRight i s) :
    exec i s = .next (rejectCommand .lengthError s) := by
  rw [exec_eq_runCommand, runCommand, if_neg (fun hv => h ((validOf_iff i s).1 hv))]

/-- A command that passes validation. -/
theorem exec_valid {i : Instr} {s : State} (h : lengthsRight i s) :
    exec i s = .next (settle ((bodyOf i s).run Config.blockCipher s.reply 0) s) := by
  rw [exec_eq_runCommand, runCommand, if_pos ((validOf_iff i s).2 h)]

/-- `exec` always answers a next state. -/
theorem exec_next (i : Instr) (s : State) : ∃ t, exec i s = .next t := by
  by_cases h : lengthsRight i s
  · exact ⟨_, exec_valid h⟩
  · exact ⟨_, exec_invalid h⟩

/-- A completed command in the terms claims use. -/
theorem completeOk_eq_delivered (out : List Byte) (reqs : List Request) (s : State) :
    completeOk out (afterRequests reqs s) = delivered s reqs out := rfl

/-- A failed command in the terms claims use. -/
theorem completeErr_eq_failed (e : CmdError) (reqs : List Request) (s : State) :
    completeErr e (afterRequests reqs s) = failed s reqs e.code := by
  have hr : zeroBytes 32 = Vector.ofFn fun j : Fin 32 => ([] : List Byte).getD j.val 0x00 := by
    ext j hj
    simp
  unfold completeErr failed ended
  rw [hr]
  rfl

/-- A command without an answer in the terms claims use. -/
theorem awaitReply_eq_waiting (reqs : List Request) (s : State) : awaitReply reqs s = waiting s reqs := rfl

/-- What settling a run comes to, for every sequence of replies. -/
theorem settle_run (p : Prog (List Byte)) (s : State) :
    settle (p.run Config.blockCipher s.reply 0) s
      = answeredOutcome s (p.requests Config.blockCipher) (p.value Config.blockCipher) := by
  rw [Prog.run_eq]
  simp only [Nat.zero_add, answeredOutcome]
  cases firstNotOk s.reply (p.requests Config.blockCipher).length with
  | none => rfl
  | some k =>
    by_cases h : s.reply k = .silent
    · simp [h, settle, awaitReply_eq_waiting]
    · simp [h, settle, completeErr_eq_failed, CmdError.code]

/-- Everything a command can do: the lengths are wrong; or it delivers its value; or a request fails; or one has no answer. -/
theorem exec_cases {i : Instr} {s t : State} (h : exec i s = .next t) :
    (¬ lengthsRight i s ∧ t = failed s [] 0x01)
      ∨ (lengthsRight i s ∧ (∀ k < ((bodyOf i s).requests Config.blockCipher).length, s.reply k = .ok)
          ∧ t = delivered s ((bodyOf i s).requests Config.blockCipher) ((bodyOf i s).value Config.blockCipher))
      ∨ (lengthsRight i s ∧ ∃ k < ((bodyOf i s).requests Config.blockCipher).length, (∀ j < k, s.reply j = .ok)
          ∧ s.reply k = .fail ∧ t = failed s (((bodyOf i s).requests Config.blockCipher).take (k + 1)) 0x02)
      ∨ (lengthsRight i s ∧ ∃ k < ((bodyOf i s).requests Config.blockCipher).length, (∀ j < k, s.reply j = .ok)
          ∧ s.reply k = .silent ∧ t = waiting s (((bodyOf i s).requests Config.blockCipher).take (k + 1))) := by
  by_cases hl : lengthsRight i s
  · rw [exec_valid hl, settle_run] at h
    injection h with h
    unfold answeredOutcome at h
    cases hf : firstNotOk s.reply ((bodyOf i s).requests Config.blockCipher).length with
    | none =>
      rw [hf] at h
      exact .inr (.inl ⟨hl, firstNotOk_eq_none.1 hf, h.symm⟩)
    | some k =>
      rw [hf] at h
      obtain ⟨hk, hbad, hok⟩ := firstNotOk_eq_some.1 hf
      cases hr : s.reply k with
      | ok => exact absurd hr hbad
      | silent => exact .inr (.inr (.inr ⟨hl, k, hk, hok, hr, by simpa [hr] using h.symm⟩))
      | fail => exact .inr (.inr (.inl ⟨hl, k, hk, hok, hr, by simpa [hr] using h.symm⟩))
  · rw [exec_invalid hl] at h
    injection h with h
    exact .inl ⟨hl, by rw [← h, rejectCommand, completeErr_eq_failed]; rfl⟩

end Sys2Proof.Machine
end

