-- ==== Sys2Proof/Laws/Memory.lean ====
section
/-! SUPPORT. The message buffer: a read after a write, the frame of a write, and that a write keeps the canonical form. -/

namespace Sys2Proof.Machine

@[simp] theorem Memory.read_nil (j : Nat) : Memory.read [] j = 0x00 := rfl

theorem Memory.wf_nil : Memory.wf [] := ⟨.nil, by simp⟩

theorem Memory.wf_cons {c : Host.Cell} {m : Memory} :
    Memory.wf (c :: m) ↔ (∀ d ∈ m, c.1 < d.1) ∧ c.2 ≠ Memory.unlisted ∧ Memory.wf m := by
  simp only [Memory.wf, List.pairwise_cons, List.mem_cons, forall_eq_or_imp]
  tauto

/-- A write leaves every other byte alone, whatever the list. -/
theorem Memory.read_write_other (m : Memory) {j k : Nat} (v : Byte) (h : k ≠ j) :
    (Memory.write m j v).read k = m.read k := by
  induction m with
  | nil =>
    unfold Memory.write
    split <;> simp [Memory.read, Memory.unlisted, Ne.symm h]
  | cons c rest ih =>
    unfold Memory.write
    split_ifs with h1 h2 h3 h4
    · rfl
    · simp [Memory.read, Ne.symm h]
    · subst h3; simp [Memory.read, Ne.symm h]
    · subst h3; simp [Memory.read, Ne.symm h]
    · simp [Memory.read, ih]

/-- An index below every listed one reads as an unlisted byte. -/
theorem Memory.read_below {m : Memory} {j : Nat} (h : ∀ c ∈ m, j < c.1) : m.read j = Memory.unlisted := by
  induction m with
  | nil => rfl
  | cons c rest ih =>
    simp only [List.mem_cons, forall_eq_or_imp] at h
    simp [Memory.read, (Nat.ne_of_lt h.1).symm, ih h.2]

/-- A canonical buffer reads back the byte written. -/
theorem Memory.read_write_same {m : Memory} (hm : Memory.wf m) (j : Nat) (v : Byte) :
    (Memory.write m j v).read j = v := by
  induction m with
  | nil =>
    unfold Memory.write
    split_ifs with h
    · simp [h, Memory.unlisted]
    · simp [Memory.read]
  | cons c rest ih =>
    obtain ⟨hlt, -, hrest⟩ := Memory.wf_cons.1 hm
    unfold Memory.write
    split_ifs with h1 h2 h3 h4
    · subst h2
      exact Memory.read_below (by simp only [List.mem_cons, forall_eq_or_imp]
                                  exact ⟨h1, fun d hd => Nat.lt_trans h1 (hlt d hd)⟩)
    · simp [Memory.read]
    · subst h3 h4; exact Memory.read_below hlt
    · simp [Memory.read]
    · simp [Memory.read, Ne.symm h3, ih hrest]

/-- A written buffer lists nothing but what it listed before and the byte written. -/
theorem Memory.mem_write {m : Memory} {j : Nat} {v : Byte} {c : Host.Cell} (h : c ∈ Memory.write m j v) :
    c ∈ m ∨ (c = (j, v) ∧ v ≠ Memory.unlisted) := by
  induction m with
  | nil => unfold Memory.write at h; split at h <;> simp_all
  | cons d rest ih =>
    unfold Memory.write at h
    split_ifs at h with h1 h2 h3 h4
    · exact .inl h
    · rcases List.mem_cons.1 h with h | h
      · exact .inr ⟨h, h2⟩
      · exact .inl h
    · exact .inl (List.mem_cons_of_mem d h)
    · rcases List.mem_cons.1 h with h | h
      · exact .inr ⟨h, h4⟩
      · exact .inl (List.mem_cons_of_mem d h)
    · rcases List.mem_cons.1 h with h | h
      · exact .inl (h ▸ List.mem_cons_self)
      · exact (ih h).imp_left (List.mem_cons_of_mem d)

/-- A write keeps the canonical form. -/
theorem Memory.write_wf {m : Memory} (hm : Memory.wf m) (j : Nat) (v : Byte) : Memory.wf (Memory.write m j v) := by
  induction m with
  | nil =>
    unfold Memory.write
    split_ifs with h
    · exact Memory.wf_nil
    · exact Memory.wf_cons.2 ⟨by simp, h, Memory.wf_nil⟩
  | cons c rest ih =>
    obtain ⟨hlt, hv, hrest⟩ := Memory.wf_cons.1 hm
    unfold Memory.write
    split_ifs with h1 h2 h3 h4
    · exact hm
    · refine Memory.wf_cons.2 ⟨?_, h2, hm⟩
      simp only [List.mem_cons, forall_eq_or_imp]
      exact ⟨h1, fun d hd => Nat.lt_trans h1 (hlt d hd)⟩
    · exact hrest
    · subst h3; exact Memory.wf_cons.2 ⟨hlt, h4, hrest⟩
    · refine Memory.wf_cons.2 ⟨fun d hd => ?_, hv, ih hrest⟩
      rcases Memory.mem_write hd with hd | ⟨rfl, -⟩
      · exact hlt d hd
      · change c.1 < j
        omega

/-- A write inside a bound keeps the listed indices inside it. -/
theorem Memory.write_bounded {m : Memory} {b j : Nat} (hm : ∀ c ∈ m, c.1 < b) (hj : j < b) (v : Byte) :
    ∀ c ∈ Memory.write m j v, c.1 < b := by
  intro c hc
  rcases Memory.mem_write hc with hc | ⟨rfl, -⟩
  · exact hm c hc
  · exact hj

end Sys2Proof.Machine
end

