-- ==== Sys2Proof/Laws/PerInstr.lean ====
section
/-! SUPPORT. Statements made once per instruction, about the instruction as syntax: its word (`30_encoding.md` R91) and its operand
contract (R93). -/

namespace Sys2Proof.Laws

/-- An instruction's words decode to it and to nothing more (R91). -/
def WordRoundTrip.Statement (i : Instr) : Prop := decode (encode i) = .ok (i, [])

theorem WordRoundTrip.subkeys : WordRoundTrip.Statement .subkeys := rfl
theorem WordRoundTrip.cmac : WordRoundTrip.Statement .cmac := rfl
theorem WordRoundTrip.ah : WordRoundTrip.Statement .ah := rfl
theorem WordRoundTrip.c1 : WordRoundTrip.Statement .c1 := rfl
theorem WordRoundTrip.s1 : WordRoundTrip.Statement .s1 := rfl
theorem WordRoundTrip.g2 : WordRoundTrip.Statement .g2 := rfl
theorem WordRoundTrip.f4 : WordRoundTrip.Statement .f4 := rfl
theorem WordRoundTrip.f5 : WordRoundTrip.Statement .f5 := rfl
theorem WordRoundTrip.f6 : WordRoundTrip.Statement .f6 := rfl
theorem WordRoundTrip.h6 : WordRoundTrip.Statement .h6 := rfl

/-- A contract names each slot once, and no field is empty or longer than a slot (R93; `10_state.md` R21). -/
def SlotContract.Statement (i : Instr) : Prop :=
  ((Machine.contract i).map Prod.fst).Nodup ∧ ∀ p ∈ Machine.contract i, 1 ≤ p.2 ∧ p.2 ≤ 32

theorem SlotContract.subkeys : SlotContract.Statement .subkeys := by unfold SlotContract.Statement; decide
theorem SlotContract.cmac : SlotContract.Statement .cmac := by unfold SlotContract.Statement; decide
theorem SlotContract.ah : SlotContract.Statement .ah := by unfold SlotContract.Statement; decide
theorem SlotContract.c1 : SlotContract.Statement .c1 := by unfold SlotContract.Statement; decide
theorem SlotContract.s1 : SlotContract.Statement .s1 := by unfold SlotContract.Statement; decide
theorem SlotContract.g2 : SlotContract.Statement .g2 := by unfold SlotContract.Statement; decide
theorem SlotContract.f4 : SlotContract.Statement .f4 := by unfold SlotContract.Statement; decide
theorem SlotContract.f5 : SlotContract.Statement .f5 := by unfold SlotContract.Statement; decide
theorem SlotContract.f6 : SlotContract.Statement .f6 := by unfold SlotContract.Statement; decide
theorem SlotContract.h6 : SlotContract.Statement .h6 := by unfold SlotContract.Statement; decide

end Sys2Proof.Laws
end

