-- ==== Sys2Proof/Laws/Registers.lean ====
section
/-! SUPPORT. The register space: the offset of each register, that no two offsets reach one register, and what a host write
changes at the offset written and at every other. -/

namespace Sys2Proof.Machine

/-- The offset a register stands at (`20_memory.md` R61); reserved offsets have none of their own. -/
def Reg.offset : Reg → Option Nat
  | .cmd => some 0x0000
  | .status => some 0x0001
  | .errcode => some 0x0002
  | .reslen => some 0x0003
  | .msgLenHi => some 0x0004
  | .msgLenLo => some 0x0005
  | .slen n => some (0x0008 + n.val)
  | .result j => some (0x0020 + j.val)
  | .slot n j => some (0x0100 + 32 * n.val + j.val)
  | .msg j => if j < Config.msgMax then some (0x1000 + j) else none
  | .reserved => none

/-- An offset that reaches a register is that register's offset. -/
theorem regAt_offset (off : Offset) : regAt off = .reserved ∨ (regAt off).offset = some off.toNat := by
  unfold regAt
  dsimp only
  split_ifs with h0 h1 h2 h3 h4 h5 h6 h7 h8 h9 <;> simp [Reg.offset] <;> omega

/-- Two offsets reach one register only if they are the same or the offsets are reserved. -/
theorem regAt_injective {a b : Offset} (h : regAt a = regAt b) (hr : regAt a ≠ .reserved) : a = b := by
  have ha := (regAt_offset a).resolve_left hr
  have hb := (regAt_offset b).resolve_left (h ▸ hr)
  rw [h, hb] at ha
  exact BitVec.eq_of_toNat_eq (Option.some.inj ha).symm

/-- Past the six control registers at the bottom of the map. -/
theorem regAt_high {off : Offset} (h : 0x0006 ≤ off.toNat) :
    regAt off
      = if h : 0x0008 ≤ off.toNat ∧ off.toNat ≤ 0x000F then .slen ⟨off.toNat - 0x0008, by omega⟩
        else if h : 0x0020 ≤ off.toNat ∧ off.toNat ≤ 0x003F then .result ⟨off.toNat - 0x0020, by omega⟩
        else if h : 0x0100 ≤ off.toNat ∧ off.toNat ≤ 0x01FF then
          .slot ⟨(off.toNat - 0x0100) / 32, by omega⟩ ⟨(off.toNat - 0x0100) % 32, by omega⟩
        else if 0x1000 ≤ off.toNat ∧ off.toNat < 0x1000 + Config.msgMax then .msg (off.toNat - 0x1000)
        else .reserved := by
  unfold regAt
  dsimp only
  rw [if_neg (by omega), if_neg (by omega), if_neg (by omega), if_neg (by omega), if_neg (by omega), if_neg (by omega)]

/-- The register at a given offset, for every register. -/
theorem regAt_of_offset {off : Offset} {r : Reg} (h : r.offset = some off.toNat) : regAt off = r := by
  cases r with
  | slen n =>
    obtain ⟨n, hn⟩ := n
    have e : 0x0008 + n = off.toNat := Option.some.inj h
    rw [regAt_high (by omega), dif_pos ⟨by omega, by omega⟩]
    exact congrArg Reg.slen (Fin.ext (by dsimp only; omega))
  | result j =>
    obtain ⟨j, hj⟩ := j
    have e : 0x0020 + j = off.toNat := Option.some.inj h
    rw [regAt_high (by omega), dif_neg (by omega), dif_pos ⟨by omega, by omega⟩]
    exact congrArg Reg.result (Fin.ext (by dsimp only; omega))
  | slot n j =>
    obtain ⟨n, hn⟩ := n
    obtain ⟨j, hj⟩ := j
    have e : 0x0100 + 32 * n + j = off.toNat := Option.some.inj h
    rw [regAt_high (by omega), dif_neg (by omega), dif_neg (by omega), dif_pos ⟨by omega, by omega⟩]
    exact congrArg₂ Reg.slot (Fin.ext (by dsimp only; omega)) (Fin.ext (by dsimp only; omega))
  | msg j =>
    simp only [Reg.offset] at h
    split at h
    · have e : 0x1000 + j = off.toNat := Option.some.inj h
      rw [regAt_high (by omega), dif_neg (by omega), dif_neg (by omega), dif_neg (by omega),
        if_pos ⟨by omega, by omega⟩]
      exact congrArg Reg.msg (by omega)
    · cases h
  | reserved => cases h
  | cmd | status | errcode | reslen | msgLenHi | msgLenLo =>
    have e := Option.some.inj h
    unfold regAt
    simp [← e]

/-- `MSG_LEN` from its two halves (`20_memory.md` R64). -/
theorem msgLen_halves (l : BitVec 16) : l.toNat = 256 * (msgLenHi l).toNat + (msgLenLo l).toNat := by
  simp [msgLenHi, msgLenLo, Nat.shiftRight_eq_div_pow]
  omega

/-- The number two bytes make, the first the more significant. -/
theorem toNat_append_bytes (hi lo : Byte) : (hi ++ lo : BitVec 16).toNat = 256 * hi.toNat + lo.toNat := by
  have h := BitVec.toNat_append hi lo
  rw [← Nat.shiftLeft_add_eq_or_of_lt lo.isLt, Nat.shiftLeft_eq] at h
  exact h.trans (by ring)

@[simp] theorem msgLenHi_append (hi lo : Byte) : msgLenHi (hi ++ lo) = hi := by
  apply BitVec.eq_of_toNat_eq
  have := toNat_append_bytes hi lo
  have := lo.isLt
  simp only [msgLenHi, BitVec.extractLsb'_toNat, Nat.shiftRight_eq_div_pow]
  omega

@[simp] theorem msgLenLo_append (hi lo : Byte) : msgLenLo (hi ++ lo) = lo := by
  apply BitVec.eq_of_toNat_eq
  have := toNat_append_bytes hi lo
  have := lo.isLt
  simp only [msgLenLo, BitVec.extractLsb'_toNat, Nat.shiftRight_eq_div_pow]
  omega

/-- Every write is ignored while BUSY (`40_command_lifecycle.md` R120). -/
theorem regWrite_busy {s : State} (h : s.phase = .busy) (off : Offset) (v : Byte) : s.regWrite off v = s := by
  simp [State.regWrite, h]

/-- A write that does not start a command leaves every other offset reading as before (`20_memory.md` R67). -/
theorem regRead_regWrite_other {s : State} {off off' : Offset} (v : Byte) (hne : off' ≠ off)
    (hcmd : s.phase = .busy ∨ regAt off ≠ .cmd) : (s.regWrite off v).regRead off' = s.regRead off' := by
  by_cases hb : s.phase = .busy
  · rw [regWrite_busy hb]
  have hc := hcmd.resolve_left hb
  unfold State.regWrite
  rw [if_neg hb]
  have key : ∀ r, regAt off = r → r ≠ .reserved → regAt off' ≠ r := fun r h1 h2 h3 =>
    hne (regAt_injective (h3.trans h1.symm) (h3 ▸ h2))
  cases h : regAt off with
  | cmd => exact absurd h hc
  | slen n =>
    have hk := key _ h (by simp)
    unfold State.regRead
    cases h' : regAt off' with
    | slen m => exact Vector.getElem_set_ne n.isLt m.isLt (fun e => hk (h'.trans (congrArg Reg.slen (Fin.ext e.symm))))
    | _ => rfl
  | slot n j =>
    have hk := key _ h (by simp)
    unfold State.regRead
    cases h' : regAt off' with
    | slot m k =>
      change (s.slots.set n (s.slots[n].set j v))[(m : Nat)][(k : Nat)] = s.slots[(m : Nat)][(k : Nat)]
      by_cases hmn : (n : Nat) = m
      · have hkj : (j : Nat) ≠ k := fun e =>
          hk (h'.trans (congrArg₂ Reg.slot (Fin.ext hmn.symm) (Fin.ext e.symm)))
        obtain rfl : n = m := Fin.ext hmn
        rw [Vector.getElem_set_self, Vector.getElem_set_ne _ _ hkj]
        rfl
      · rw [Vector.getElem_set_ne _ _ hmn]
    | _ => rfl
  | msg j =>
    have hk := key _ h (by simp)
    unfold State.regRead
    cases h' : regAt off' with
    | msg k => exact Memory.read_write_other _ _ (fun e => hk (h'.trans (congrArg Reg.msg e)))
    | _ => rfl
  | msgLenHi =>
    have hk := key _ h (by simp)
    unfold State.regRead
    cases h' : regAt off' with
    | msgLenHi => exact absurd h' hk
    | msgLenLo => exact msgLenLo_append v _
    | _ => rfl
  | msgLenLo =>
    have hk := key _ h (by simp)
    unfold State.regRead
    cases h' : regAt off' with
    | msgLenHi => exact msgLenHi_append _ v
    | msgLenLo => exact absurd h' hk
    | _ => rfl
  | _ => rfl

/-- What a write does to the fields that are no operand storage: nothing, unless it is an acceptance. -/
theorem regWrite_cases (s : State) (off : Offset) (v : Byte) :
    (s.phase ≠ .busy ∧ regAt off = .cmd ∧ s.regWrite off v = accept v s)
      ∨ ∃ slots slen msg msgLen,
          s.regWrite off v = { s with slots := slots, slen := slen, msg := msg, msgLen := msgLen } := by
  by_cases hb : s.phase = .busy
  · exact .inr ⟨s.slots, s.slen, s.msg, s.msgLen, regWrite_busy hb off v⟩
  unfold State.regWrite
  rw [if_neg hb]
  cases h : regAt off with
  | cmd => exact .inl ⟨hb, rfl, rfl⟩
  | slen n => exact .inr ⟨_, _, _, _, rfl⟩
  | slot n j => exact .inr ⟨_, _, _, _, rfl⟩
  | msg j => exact .inr ⟨_, _, _, _, rfl⟩
  | msgLenHi => exact .inr ⟨_, _, _, _, rfl⟩
  | msgLenLo => exact .inr ⟨_, _, _, _, rfl⟩
  | _ => exact .inr ⟨s.slots, s.slen, s.msg, s.msgLen, rfl⟩

/-- What a write leaves of the message buffer: it is as before, or one byte inside the buffer is written. -/
theorem regWrite_msg (s : State) (off : Offset) (v : Byte) :
    (s.regWrite off v).msg = s.msg ∨ ∃ j < Config.msgMax, (s.regWrite off v).msg = s.msg.write j v := by
  by_cases hb : s.phase = .busy
  · rw [regWrite_busy hb]; exact .inl rfl
  have hoff := regAt_offset off
  unfold State.regWrite
  rw [if_neg hb]
  cases h : regAt off with
  | msg j =>
    refine .inr ⟨j, ?_, rfl⟩
    by_contra hj
    simp [h, Reg.offset, hj] at hoff
  | _ => exact .inl rfl

end Sys2Proof.Machine
end

