-- ==== Sys2Proof/Laws/Step.lean ====
section
/-! SUPPORT. Everything a step can do, said once: which turn is taken, and what the turn of each agent can answer. -/

namespace Sys2Proof.Machine

open Sys2Proof.Safety

/-- With no turn appointed, the state in which the turn is taken is the state itself. -/
theorem turnTaken_unscheduled {s : State} (h : s.schedule = []) : turnTaken s = s := by
  unfold turnTaken
  rw [h, List.tail_nil, ← h]

/-- With no turn appointed, the engine moves while BUSY and the host else. -/
theorem nextTurn_unscheduled {s : State} (h : s.schedule = []) : nextTurn s = defaultTurn s := by
  rw [nextTurn, h, List.headD_nil]

/-- Everything the engine's turn can do. -/
theorem engineTurn_cases {s t : State} (h : engineTurn s = .next t) :
    (s.phase ≠ .busy ∧ t = s)
      ∨ (s.phase = .busy ∧ (∃ i, decodeByte s.op = .ok i ∧ exec i s = .next t))
      ∨ (s.phase = .busy ∧ (∃ r, decodeByte s.op = .error r) ∧ t = failed s [] 0x03) := by
  unfold engineTurn at h
  by_cases hb : s.phase = .busy
  · rw [if_pos hb] at h
    cases hd : decodeByte s.op with
    | ok i => rw [hd] at h; exact .inr (.inl ⟨hb, i, rfl, h⟩)
    | error r =>
      rw [hd] at h
      injection h with h
      exact .inr (.inr ⟨hb, ⟨r, rfl⟩, by rw [← h, rejectCommand, completeErr_eq_failed]; rfl⟩)
  · rw [if_neg hb] at h
    injection h with h
    exact .inl ⟨hb, h.symm⟩

/-- Everything the host's turn can do: nothing, a write, or a read with the script moved on. -/
theorem hostTurn_cases {s t : State} (h : hostTurn s = .next t) :
    t = s
      ∨ (∃ off v rest, s.script = .wr off v :: rest ∧ t = State.regWrite { s with script := rest } off v)
      ∨ (∃ off script, t = hostRead off { s with script := script }) := by
  unfold hostTurn at h
  split at h
  · injection h with h; exact .inl h.symm
  · injection h with h; exact .inr (.inl ⟨_, _, _, by assumption, h.symm⟩)
  · injection h with h; exact .inr (.inr ⟨_, _, h.symm⟩)
  · split at h
    · injection h with h; exact .inr (.inr ⟨0x0001, s.script, h.symm⟩)
    · injection h with h; exact .inr (.inr ⟨_, _, h.symm⟩)
  · injection h with h; exact .inr (.inr ⟨_, _, h.symm⟩)
  · cases h

/-- Everything a step can do: a host's turn, an engine's turn, a reset, or nothing. -/
theorem step_cases {s t : State} (h : step s = .next t) :
    (nextTurn s = .host ∧ hostTurn (turnTaken s) = .next t)
      ∨ (nextTurn s = .engine ∧ engineTurn (turnTaken s) = .next t)
      ∨ (nextTurn s = .reset ∧ t = resetEvent (turnTaken s))
      ∨ (nextTurn s = .strayReply ∧ t = turnTaken s) := by
  unfold step at h
  cases hn : nextTurn s with
  | host => rw [hn] at h; exact .inl ⟨rfl, h⟩
  | engine => rw [hn] at h; exact .inr (.inl ⟨rfl, h⟩)
  | reset => rw [hn] at h; injection h with h; exact .inr (.inr (.inl ⟨rfl, h.symm⟩))
  | strayReply => rw [hn] at h; injection h with h; exact .inr (.inr (.inr ⟨rfl, h.symm⟩))

/-- A run of any machine takes its first step, then runs on. -/
theorem core_run_succ (M : Host.Core) {s t : M.State} (h : M.step s = .next t) (n : Nat) :
    M.run (n + 1) s = M.run n t := by
  simp [Host.Core.run, h]

/-- A run of this machine takes its first step, then runs on. -/
theorem run_succ {s t : State} (h : step s = .next t) (n : Nat) :
    Host.Core.run Sys2Proof.core (n + 1) s = Host.Core.run Sys2Proof.core n t :=
  core_run_succ Sys2Proof.core h n

end Sys2Proof.Machine
end

