-- ==== Sys2Proof/WellFormed.lean ====
section
/-! DEFINITION. Well-formedness. A command has no field (`30_encoding.md` R90), so every `Instr` is well formed; what can be ill
formed is a line of a host script (R97's "requires") and a host access that is no transaction of the block (`20_memory.md` R66). -/

namespace Sys2Proof

/-- A command has no field that could hold a value the encoding does not admit (R90). -/
def Instr.wf (_ : Instr) : Bool := true

namespace Machine

/-- R97: `LOAD` and `LOADLEN` require L <= 32, `LOADMSG` requires L <= MSG_MAX. -/
def Pseudo.wf : Pseudo → Bool
  | .load _ data => data.length ≤ 32
  | .loadlen _ _ data => data.length ≤ 32
  | .loadmsg data => data.length ≤ Config.msgMax
  | .go _ => true
  | .goByte _ => true
  | .wait => true
  | .readres => true

/-- The only access width is one byte (`20_memory.md` R65, R66). -/
def HostStmt.wf (stmt : HostStmt) : Bool := decide (stmt.width = 1)

end Machine
end Sys2Proof
end

