-- ==== Sys2Proof/Tests/Slice0.lean ====
section
/-! SUPPORT. Tests. Expected values come from `95_test_vectors.md` (the row is named at each test) or are the words of
`30_encoding.md` R91; then, for every statement that has hypotheses, a witness that they can be met together. -/

namespace Sys2Proof.Tests

open Sys2Proof Sys2Proof.Machine Sys2Proof.Safety

/-! ### Helpers -/

/-- The `n` bytes of a number, most significant first. -/
def hex (n x : Nat) : List Byte := (List.range n).map fun i => BitVec.ofNat 8 (x >>> (8 * (n - 1 - i)))

/-- The block of a number, most significant byte first. -/
def blk (x : Nat) : Block := Vector.ofFn fun i => BitVec.ofNat 8 (x >>> (8 * (15 - i.val)))

/-- `n` bytes counting up from `x`. -/
def count (n x : Nat) : List Byte := (List.range n).map fun i => BitVec.ofNat 8 (x + i)

/-- The reset state with fields in the slots from 0 on, their lengths in `SLEN`. -/
def loaded (fields : List (List Byte)) : State :=
  { State.reset with
    slots := Vector.ofFn fun n => Vector.ofFn fun j => (fields.getD n.val []).getD j.val 0x00
    slen := Vector.ofFn fun n => BitVec.ofNat 8 (fields.getD n.val []).length }

/-- The same with a message. -/
def withMessage (m : List Byte) (s : State) : State :=
  { s with
    msg := (List.range m.length).foldl (fun acc j => acc.write j (m.getD j 0x00)) []
    msgLen := BitVec.ofNat 16 m.length }

/-- Phase, error code and result length after one step. -/
def status (o : Host.Outcome State Fault Refusal) : Option (Phase × Byte × Byte) :=
  match o with
  | .next t => some (t.phase, t.errcode, t.reslen)
  | _ => none

/-- Every command: the state in BUSY with that command latched, its lengths right and 13 replies `ok` to come. -/
def ready (i : Instr) : State :=
  { State.reset with
    slots := Vector.ofFn fun n => Vector.ofFn fun j => BitVec.ofNat 8 (32 * n.val + j.val)
    slen := Vector.ofFn fun n => BitVec.ofNat 8 ((((contract i).find? fun p => decide (p.1 = n)).map Prod.snd).getD 0)
    phase := .busy
    op := opcode i
    replies := List.replicate 13 .ok }

/-! ### AES-128, one instance of `BLOCK_CIPHER` (`93_implementation_defined.md` G5, G9), on numbers -/

def sboxTable : Nat :=
  0x637c777bf26b6fc53001672bfed7ab76ca82c97dfa5947f0add4a2af9ca472c0b7fd9326363ff7cc34a5e5f171d8311504c723c31896059a071280e2eb27b27509832c1a1b6e5aa0523bd6b329e32f8453d100ed20fcb15b6acbbe394a4c58cfd0efaafb434d338545f9027f503c9fa851a3408f929d38f5bcb6da2110fff3d2cd0c13ec5f974417c4a77e3d645d197360814fdc222a908846eeb814de5e0bdbe0323a0a4906245cc2d3ac629195e479e7c8376d8dd54ea96c56f4ea657aae08ba78252e1ca6b4c6e8dd741f4bbd8b8a703eb5664803f60e613557b986c11d9ee1f8981169d98e949b1e87e9ce5528df8ca1890dbfe6426841992d0fb054bb16
def sub (x : Nat) : Nat := (sboxTable >>> (8 * (255 - x))) % 256
def xtime (a : Nat) : Nat := if a < 128 then 2 * a else (2 * a - 256) ^^^ 0x1b
def byteAt (n i : Nat) : Nat := (n >>> (8 * (15 - i))) % 256
def pack (f : Nat → Nat) : Nat := (List.range 16).foldl (fun acc i => acc * 256 + f i) 0
/-- Evaluate the number before it is used. -/
def force (n : Nat) (f : Nat → Nat) : Nat := match n with | 0 => f 0 | k + 1 => f (k + 1)
def rcon (r : Nat) : Nat := [1, 2, 4, 8, 16, 32, 64, 128, 0x1b, 0x36].getD r 0
def nextKey (k r : Nat) : Nat :=
  let t := sub (byteAt k 13) ^^^ rcon r
  let w0 := (k >>> 96) ^^^ (((t * 256 + sub (byteAt k 14)) * 256 + sub (byteAt k 15)) * 256 + sub (byteAt k 12))
  let w1 := ((k >>> 64) % 2 ^ 32) ^^^ w0
  let w2 := ((k >>> 32) % 2 ^ 32) ^^^ w1
  let w3 := (k % 2 ^ 32) ^^^ w2
  ((w0 * 2 ^ 32 + w1) * 2 ^ 32 + w2) * 2 ^ 32 + w3
def subShift (s : Nat) : Nat := pack fun i => sub (byteAt s ((i + 4 * (i % 4)) % 16))
def mixByte (s i : Nat) : Nat :=
  let a j := byteAt s (4 * (i / 4) + (i + j) % 4)
  xtime (a 0) ^^^ xtime (a 1) ^^^ a 1 ^^^ a 2 ^^^ a 3
def rounds : Nat → Nat → Nat → Nat → Nat
  | 0, _, _, s => s
  | n + 1, r, k, s =>
    force (nextKey k r) fun k' => force (subShift s) fun u =>
      force (if n = 0 then u ^^^ k' else pack (mixByte u) ^^^ k') fun s' => rounds n (r + 1) k' s'
def number (b : Block) : Nat := b.toList.foldl (fun acc x => acc * 256 + x.toNat) 0
def aes (k b : Block) : Block :=
  blk (force (number k) fun k => force (number b) fun b => rounds 10 0 k (b ^^^ k))

/-- `E_XOR` of `95_test_vectors.md`. -/
def xorCipher (k b : Block) : Block := xor16 k b

/-! ### Decoding: words written from the binary column of R91 -/

theorem test_decode_subkeys : decode [0b00000001#8] = .ok (.subkeys, []) := by decide
theorem test_decode_cmac : decode [0b00000010#8] = .ok (.cmac, []) := by decide
theorem test_decode_ah : decode [0b00010000#8] = .ok (.ah, []) := by decide
theorem test_decode_c1 : decode [0b00010001#8] = .ok (.c1, []) := by decide
theorem test_decode_s1 : decode [0b00010010#8] = .ok (.s1, []) := by decide
theorem test_decode_g2 : decode [0b00010011#8] = .ok (.g2, []) := by decide
theorem test_decode_f4 : decode [0b00100000#8] = .ok (.f4, []) := by decide
theorem test_decode_f5 : decode [0b00100001#8] = .ok (.f5, []) := by decide
theorem test_decode_f6 : decode [0b00100010#8] = .ok (.f6, []) := by decide
theorem test_decode_h6 : decode [0b00100011#8] = .ok (.h6, []) := by decide

/-- F11 to F13: reserved opcodes. -/
theorem test_decode_reserved :
    decode [0x00] = .error (.reservedOpcode 0x00) ∧ decode [0x24] = .error (.reservedOpcode 0x24)
      ∧ decode [0xff] = .error (.reservedOpcode 0xff) ∧ decode [] = .error .noByte := by decide

theorem test_table_word :
    decodeTableWord 8 0x21 = some .f5 ∧ decodeTableWord 8 0x24 = none ∧ decodeTableWord 8 0x10 = some .ah := by decide

/-! ### Well-formedness: an ill-formed term for each check -/

theorem test_wf_instr : Instr.wf .c1 = true := by decide
theorem test_wf_load : Pseudo.wf (.load 0 (hex 33 0)) = false ∧ Pseudo.wf (.load 0 (hex 32 0)) = true := by decide
theorem test_wf_loadlen :
    Pseudo.wf (.loadlen 7 16 (hex 33 0)) = false ∧ Pseudo.wf (.loadlen 7 255 (hex 32 0)) = true := by decide

theorem test_wf_loadmsg :
    Pseudo.wf (.loadmsg (List.replicate 61441 0x00)) = false
      ∧ Pseudo.wf (.loadmsg (List.replicate 64 0x00)) = true := by
  have h1 := Config.msgMax_le
  have h2 := Config.msgMax_ge
  simp only [Pseudo.wf, List.length_replicate, decide_eq_false_iff_not, decide_eq_true_eq]
  omega

/-- An access of two bytes, and one of one. -/
theorem test_wf_wide : HostStmt.wf (.wide 0x0000 0) = false ∧ HostStmt.wf (.wr 0x0000 0x01) = true := by decide

/-- P1's first lines: the expansion of `LOAD` and `LOADMSG`. -/
theorem test_expand :
    expandScript [.load 2 [0x07, 0x07], .loadmsg [0xaa], .go .cmac]
      = [.wr 0x000A 0x02, .wr 0x0140 0x07, .wr 0x0141 0x07, .wr 0x0004 0x00, .wr 0x0005 0x01, .wr 0x1000 0xaa,
         .wr 0x0000 0x02] := by decide

/-! ### ByteOps (section B) -/

theorem test_xor16 :
    xor16 (blk 0x5783d52156ad6f0e6388274ec6702ee0) (blk 0x05000800000302070710000001010001)
      = blk 0x5283dd2156ae6d096498274ec7712ee1 := by decide +kernel

theorem test_shift :
    shiftLeftOneBit (blk 0x01800000000000000000000000000000) = blk 0x03000000000000000000000000000000
      ∧ shiftLeftOneBit (blk 0x80000000000000000000000000000000) = ZERO16
      ∧ shiftLeftOneBit (blk 0x7df76b0c1ab899b33e42f047b91b546f) = blk 0xfbeed618357133667c85e08f7236a8de := by
  decide +kernel

theorem test_dbl :
    dbl (blk 0x80000000000000000000000000000002) = blk 0x83
      ∧ dbl (blk 0x40000000000000000000000000000001) = blk 0x80000000000000000000000000000002
      ∧ dbl (blk 0xffffffffffffffffffffffffffffff79) = blk 0xfffffffffffffffffffffffffffffe75 := by decide +kernel

theorem test_pad :
    pad (hex 16 0xa0a1a2a3a4a5a6a7a8a9aaabacadaeaf) 7 (by decide) = blk 0xa0a1a2a3a4a5a6800000000000000000
      ∧ pad [] 0 (by decide) = blk 0x80000000000000000000000000000000
      ∧ pad (hex 16 0xa0a1a2a3a4a5a6a7a8a9aaabacadaeaf) 16 (by decide) = blk 0xa0a1a2a3a4a5a6a7a8a9aaabacadaeaf := by
  decide +kernel

theorem test_low :
    (low (blk 0x159d5fb72ebe2311a48c1bdcc40dfbaa) 3 (by decide)).toList = hex 3 0x0dfbaa := by decide +kernel

/-! ### The commands: a value under AES-128 and a request list under `E_XOR`, or a failing step -/

/-- C1: `K1 || K2`. -/
theorem test_subkeys_value :
    (progSubkeys (loaded [hex 16 0x2b7e151628aed2a6abf7158809cf4f3c])).value aes
      = hex 32 0xfbeed618357133667c85e08f7236a8def7ddac306ae266ccf90bc11ee46d513b := by decide +kernel

/-- F3: a key of 17 bytes. -/
theorem test_subkeys_length :
    status (step ((loaded [hex 17 0]).withFetchWord 8 0x01)) = some (.error, 0x01, 0x00) := by decide +kernel

/-- A3: 40 bytes. -/
theorem test_cmac_value :
    (progCmac (withMessage
        (hex 40 0x6bc1bee22e409f96e93d7e117393172aae2d8a571e03ac9c9eb76fac45af8e5130c81c46a35ce411)
        (loaded [hex 16 0x2b7e151628aed2a6abf7158809cf4f3c]))).value aes
      = hex 16 0xdfa66747de9ae63030ca32611497c827 := by decide +kernel

/-- C2, 32 bytes: a complete last block. -/
theorem test_cmac_requests :
    (progCmac (withMessage (count 32 0x10) (loaded [hex 16 0x0123456789abcdef0123456789abcdef]))).requests xorCipher
      = [0, 0x101112131415161718191a1b1c1d1e1f, 0x3355ff98aacc66013355ff98aacc6601].map
          fun b => ⟨blk 0x0123456789abcdef0123456789abcdef, blk b⟩ := by decide +kernel

/-- A6, with bytes beyond the operand in slot 1. -/
theorem test_ah_value :
    (progAh (loaded [hex 16 0xec0234a357c8ad05341010a60a397d9b, hex 7 0x708194deadbeef])).value aes
      = hex 3 0x0dfbaa := by decide +kernel

/-- F6: `r` of 4 bytes. -/
theorem test_ah_length :
    status (step ((loaded [hex 16 0, hex 4 0]).withFetchWord 8 0x10)) = some (.error, 0x01, 0x00) := by decide +kernel

/-- A7, with `S[4] = ff` and `S[6] = fe` (D1): bit 0 only. -/
theorem test_c1_value :
    (progC1 (loaded [hex 16 0, hex 16 0x5783D52156AD6F0E6388274EC6702EE0, hex 7 0x07071000000101,
        hex 7 0x05000800000302, [0xff], hex 6 0xA1A2A3A4A5A6, [0xfe], hex 6 0xB1B2B3B4B5B6])).value aes
      = hex 16 0x1e1e3fef878988ead2a74dc5bef13b86 := by decide +kernel

/-- D2. -/
theorem test_c1_requests :
    (progC1 (loaded [hex 16 0x0123456789abcdef0123456789abcdef, hex 16 0x5783D52156AD6F0E6388274EC6702EE0,
        hex 7 0x07071000000101, hex 7 0x05000800000302, [0x01], hex 6 0xA1A2A3A4A5A6, [0x00],
        hex 6 0xB1B2B3B4B5B6])).requests xorCipher
      = [0x5283dd2156ae6d096498274ec7712ee1, 0x53a098467ea70342c01dd39bfd6e56b8].map
          fun b => ⟨blk 0x0123456789abcdef0123456789abcdef, blk b⟩ := by decide +kernel

/-- A5. -/
theorem test_s1_value :
    (progS1 (loaded [hex 16 0, hex 16 0x000f0e0d0c0b0a091122334455667788,
        hex 16 0x010203040506070899aabbccddeeff00])).value aes
      = hex 16 0x9a1fe1f0e8b0f49b5b4216ae796da062 := by decide +kernel

/-- F8: nonces of 8 bytes. -/
theorem test_s1_length :
    status (step ((loaded [hex 16 0, hex 8 0, hex 8 0]).withFetchWord 8 0x12)) = some (.error, 0x01, 0x00) := by
  decide +kernel

/-- G-G2. -/
theorem test_g2_value :
    (progG2 (loaded [hex 32 0x20b003d2f297be2c5e2c83a7e9f9a5b9eff49111acf4fddbcc0301480e359de6,
        hex 32 0x55188b3d32f6bb9a900afcfbeed4e72a59cb9ac2f19d7cfb6b4fdd49f47fc5fd,
        hex 16 0xd5cb8454d177733effffb2ec712baeab, hex 16 0xa6e8e7cc25a75f6e216583f7ff3dc4cf])).value aes
      = hex 4 0x2f9ed5ba := by decide +kernel

/-- D2: the final request. -/
theorem test_g2_requests :
    ((progG2 (loaded [count 32 0, count 32 0x20, hex 16 0x0123456789abcdef0123456789abcdef,
        count 16 0xf0])).requests xorCipher).map (·.block)
      = [0, 0x000102030405060708090a0b0c0d0e0f, 0x1133557799bbddff1133557799bbddff,
          0x303132333435363738393a3b3c3d3e3f, 0x0123456789abcdef0123456789abcdef,
          0xf2b7783ce7a26d29fabf7034efaa6521].map blk := by decide +kernel

/-- G-F4. -/
theorem test_f4_value :
    (progF4 (loaded [hex 32 0x20b003d2f297be2c5e2c83a7e9f9a5b9eff49111acf4fddbcc0301480e359de6,
        hex 32 0x55188b3d32f6bb9a900afcfbeed4e72a59cb9ac2f19d7cfb6b4fdd49f47fc5fd,
        hex 16 0xd5cb8454d177733effffb2ec712baeab, [0x00]])).value aes
      = hex 16 0xf2c916f107a9bd1cf1eda1bea974872d := by decide +kernel

/-- Section E: all eight bits of `z` count. -/
theorem test_f4_all_bits_of_z :
    (progF4 (loaded [count 32 0, count 32 0x20, hex 16 0x0123456789abcdef0123456789abcdef, [0xff]])).value xorCipher
      = hex 16 0xfa2e50f9af04fa5305ae50f9af04fa53 := by decide +kernel

/-- G-F5, the default `SALT`. -/
theorem test_f5_value :
    (progF5 Config.defaultSalt (loaded [hex 32 0xec0234a357c8ad05341010a60a397d9b99796b13b4f866f1868d34f373bfa698,
        hex 16 0xd5cb8454d177733effffb2ec712baeab, hex 16 0xa6e8e7cc25a75f6e216583f7ff3dc4cf,
        hex 7 0x0056123737bfce, hex 7 0x00a713702dcfc1])).value aes
      = hex 32 0x2965f176a1084a02fd3f6a20ce636e206986791169d7cd23980522b594750a38 := by decide +kernel

/-- Section E: the 13 requests. -/
theorem test_f5_requests :
    ((progF5 Config.defaultSalt (loaded [count 32 0x40, count 16 0x60, count 16 0x70, hex 7 0x00a1a2a3a4a5a6,
        hex 7 0x01b1b2b3b4b5b6])).requests xorCipher).map (·.block)
      = [0, 0x404142434445464748494a4b4c4d4e4f, 0xa58994a2ef0eff58b0490c7dfeb194d2,
          0, 0x0062746c65606162636465666768696a, 0xa20f0e314feb4a70c06e17b6b4c1077c,
          0x1072647c7510b1b2b3b4b5b611a1a2a3, 0x49c29983278682512232ac8a2634e9f6,
          0, 0x0162746c65606162636465666768696a, 0xa30f0e314feb4a70c06e17b6b4c1077c,
          0x1172647c7510b1b2b3b4b5b611a1a2a3, 0x48c29983278682512232ac8a2634e9f6].map blk := by decide +kernel

/-- G-F6. -/
theorem test_f6_value :
    (progF6 (loaded [hex 16 0x2965f176a1084a02fd3f6a20ce636e20, hex 16 0xd5cb8454d177733effffb2ec712baeab,
        hex 16 0xa6e8e7cc25a75f6e216583f7ff3dc4cf, hex 16 0x12a3343bb453bb5408da42d20c2d0fc8, hex 3 0x010102,
        hex 7 0x0056123737bfce, hex 7 0x00a713702dcfc1])).value aes
      = hex 16 0xe3c473989cd0e8c5d26c0b09da958f61 := by decide +kernel

/-- F9: addresses of 16 bytes. -/
theorem test_f6_length :
    status (step ((loaded [hex 16 0, hex 16 0, hex 16 0, hex 16 0, hex 3 0, hex 16 0, hex 16 0]).withFetchWord 8 0x22))
      = some (.error, 0x01, 0x00) := by decide +kernel

/-- G-H6. -/
theorem test_h6_value :
    (progH6 (loaded [hex 16 0xec0234a357c8ad05341010a60a397d9b, hex 4 0x6c656272])).value aes
      = hex 16 0x2d9ae102e76dc91ce8d3a9e280b16399 := by decide +kernel

/-- F10: a key of 32 bytes. -/
theorem test_h6_length :
    status (step ((loaded [hex 32 0, hex 4 0x6c656272]).withFetchWord 8 0x23)) = some (.error, 0x01, 0x00) := by
  decide +kernel

/-! ### Steps -/

/-- F11 to F13: a reserved opcode, before any length is looked at. -/
theorem test_reserved_opcodes :
    status (step (State.reset.withFetchWord 8 0x00)) = some (.error, 0x03, 0x00)
      ∧ status (step ((loaded [hex 16 0]).withFetchWord 8 0x24)) = some (.error, 0x03, 0x00)
      ∧ status (step (State.reset.withFetchWord 8 0xff)) = some (.error, 0x03, 0x00) := by decide +kernel

/-- F1: each command, the first after reset with nothing loaded. -/
theorem test_first_after_reset :
    ∀ w ∈ ([0x01, 0x02, 0x10, 0x11, 0x12, 0x13, 0x20, 0x21, 0x22, 0x23] : List Nat),
      status (step (State.reset.withFetchWord 8 w)) = some (.error, 0x01, 0x00) := by decide +kernel

/-- F16: request 2 of `H6` is answered `fail`. -/
theorem test_cipher_failure :
    status (step ({ loaded [hex 16 0, hex 4 0] with replies := [.ok, .fail] }.withFetchWord 8 0x23))
      = some (.error, 0x02, 0x00) := by decide +kernel

/-- L-b: reads while BUSY, after a write that is lost. -/
theorem test_busy_reads :
    let s := (ready .h6).regWrite 0x0000 0x10
    s.regRead 0x0001 = 0x01 ∧ s.regRead 0x0000 = 0x00 ∧ s.regRead 0x0008 = 0x10 ∧ s.regRead 0x0101 = 0x01
      ∧ s.regRead 0x0003 = 0x00 ∧ s.op = 0x23 := by decide +kernel

/-- L-e: writes that change nothing, outside BUSY. -/
theorem test_inert_writes :
    ∀ off ∈ ([0x0001, 0x0002, 0x0003, 0x0020, 0x003f, 0x0006, 0x0010, 0x0200] : List Offset),
      (loaded [hex 16 1]).regWrite off 0xff = loaded [hex 16 1] := by
  simp [State.regWrite, regAt]

/-! ### Witnesses: the hypotheses of the statements can be met together -/

theorem ready_lengths (i : Instr) : lengthsRight i (ready i) := by
  cases i with
  | cmac => exact ⟨by decide, Nat.zero_le _⟩
  | _ => unfold lengthsRight; decide

theorem ready_replies (i : Instr) : ∀ k < requestCount i (ready i), (ready i).reply k = .ok := by
  cases i <;> decide

/-- `ready i` with a message of one byte. -/
def readyByte (i : Instr) : State := { ready i with msg := [(0, 0xaa)], msgLen := 1 }

/-- The same but for what no command reads, and an outcome of its own: slot 7's last byte and the message beyond its length. -/
def readyOther (i : Instr) : State :=
  { readyByte i with
    slots := (readyByte i).slots.set 7 ((readyByte i).slots[7].set 31 0xee)
    msg := [(0, 0xaa), (1, 0xbb)] }

/-- `ready i` with the reply to request `k` replaced. -/
def replying (i : Instr) (k : Nat) (r : Reply) : State := { ready i with replies := (List.replicate 13 Reply.ok).set k r }

/-- A host about to execute `stmts`, the engine in `phase`. -/
def hostAt (phase : Phase) (stmts : List HostStmt) : State := { State.reset with phase := phase, script := stmts }

theorem witness_DecodeEncodeAgree : decodeByte 0x23 = .ok .h6 := by decide

theorem witness_RegWriteByCase :
    Memory.wf (readyByte .cmac).msg ∧ (readyByte .cmac).phase = .busy
      ∧ Memory.wf State.reset.msg ∧ State.reset.phase ≠ .busy
      ∧ (0x0008 : Offset).toNat = 0x0008 + (0 : Fin 8).val ∧ (0x000F : Offset).toNat = 0x0008 + (7 : Fin 8).val
      ∧ (0x0100 : Offset).toNat = 0x0100 + 32 * (0 : Fin 8).val + (0 : Fin 32).val
      ∧ (0x01FF : Offset).toNat = 0x0100 + 32 * (7 : Fin 8).val + (31 : Fin 32).val
      ∧ 0 < Config.msgMax ∧ (0x1000 : Offset).toNat = 0x1000 + 0
      ∧ 63 < Config.msgMax ∧ (0x103F : Offset).toNat = 0x1000 + 63 := by
  have := Config.msgMax_ge
  refine ⟨by decide, by decide, by decide, by decide, by decide, by decide, by decide, by decide, by omega, by decide,
    by omega, by decide⟩

theorem witness_RegReadByCase :
    (0x0020 : Offset).toNat = 0x0020 + (0 : Fin 32).val ∧ (0x003F : Offset).toNat = 0x0020 + (31 : Fin 32).val
      ∧ (0x01E0 : Offset).toNat = 0x0100 + 32 * (7 : Fin 8).val + (0 : Fin 32).val
      ∧ 63 < Config.msgMax ∧ (0x103F : Offset).toNat = 0x1000 + 63 := by
  have := Config.msgMax_ge
  refine ⟨by decide, by decide, by decide, by omega, by decide⟩

/-- The borders of the reserved ranges; above the message buffer there is an offset unless `MSG_MAX` is the largest. -/
theorem witness_ReservedOffsetsInert :
    (∀ off ∈ ([0x0006, 0x0007, 0x0010, 0x001F, 0x0040, 0x00FF, 0x0200, 0x0FFF] : List Offset), regAt off = .reserved)
      ∧ (Config.msgMax < 61440 → regAt 0xFFFF = .reserved) := by
  constructor
  · simp [regAt]
  · intro h
    simp [regAt]
    omega

theorem witness_AccessSideEffects :
    (hostAt .idle [.rd 0x0001]).script = .rd 0x0001 :: []
      ∧ ∃ t, hostTurn (hostAt .idle [.rd 0x0001]) = .next t := ⟨rfl, _, rfl⟩

theorem witness_AccessSideEffects_write : Memory.wf (readyByte .cmac).msg := by decide

theorem witness_FieldsAtAscendingOffsets :
    0 < (readyByte .cmac).message.length ∧ (readyByte .cmac).msgLen.toNat ≤ Config.msgMax :=
  ⟨by decide, Nat.le_trans (by decide) Config.msgMax_ge⟩

theorem witness_MsgLenHalves : State.reset.phase ≠ .busy := by decide

theorem witness_CmdWriteAccepts : (hostAt .error []).phase ≠ .busy := by decide

theorem witness_WritesWhileBusyLost :
    let s := { hostAt .busy [.wr 0x0000 0x10] with schedule := [.host] }
    s.phase = .busy ∧ nextTurn s = .host ∧ s.script = .wr 0x0000 0x10 :: [] := by decide

/-- Both sides: the narrowest wide access, two bytes, on the host's turn; and a one-byte access, a turn with nothing to do and
a wide access that is not yet the host's turn. -/
theorem witness_OnlyWideAccessStops :
    (nextTurn (hostAt .idle [.wide 0x0000 0]) = .host ∧ (HostStmt.wide 0x0000 0).width = 2)
      ∧ (∀ s ∈ [hostAt .idle [.rd 0x0000], State.reset, hostAt .busy [.wide 0x0000 0]],
          ¬ (nextTurn s = .host ∧ ∃ stmt rest, s.script = stmt :: rest ∧ stmt.width ≠ 1)) := by
  refine ⟨⟨rfl, rfl⟩, ?_⟩
  simp [hostAt, nextTurn, defaultTurn, State.reset, HostStmt.width]

/-- A field of 13 bytes and one of 3, as in `AH`, and the border at which one field is empty. -/
theorem witness_ConcatenationOrder :
    ((zeroBytes 13).toList ++ (zeroBytes 3).toList).length = 16
      ∧ ((zeroBytes 0).toList ++ (zeroBytes 16).toList).length = 16 := by simp

theorem witness_PollingStatements :
    (hostAt .busy [.wait]).script = .wait :: [] ∧ (hostAt .done [.readres]).script = .readres :: [] := ⟨rfl, rfl⟩

theorem witness_LoadWritesTheField :
    let s := hostAt .idle (Pseudo.expand (.load 7 (hex 32 0)) ++ [])
    s.phase ≠ .busy ∧ s.schedule = [] ∧ (hex 32 0).length ≤ 32
      ∧ s.script = (Pseudo.load 7 (hex 32 0)).expand ++ [] := by decide

theorem witness_ShiftLeftDoubles : (0 : Nat) < 15 ∧ (14 : Nat) < 15 := by decide

theorem witness_DblReducesByRb :
    (blk 0x80000000000000000000000000000000)[0].getLsbD 7 = true ∧ ZERO16[0].getLsbD 7 = false := by decide

theorem witness_PadLayout :
    (0 ≤ 16 ∧ 0 ≤ (hex 16 0).length) ∧ (16 ≤ 16 ∧ 16 ≤ (hex 16 0).length)
      ∧ (15 : Fin 16).val < 16 ∧ (0 : Fin 16).val = 0 ∧ 0 < (1 : Fin 16).val := by decide

theorem witness_LowIsResidue : (0 : Nat) ≤ 16 ∧ (16 : Nat) ≤ 16 := by decide

theorem witness_ReliableCommandDelivers (i : Instr) :
    lengthsRight i (ready i) ∧ ∀ k < requestCount i (ready i), (ready i).reply k = .ok :=
  ⟨ready_lengths i, ready_replies i⟩

/-- Both ways of R251's "exactly if": `ready i` passes, the reset state does not. -/
theorem witness_LengthErrorExactly (i : Instr) :
    ((ready i).errcode ≠ 0x01 ∧ (∃ t, exec i (ready i) = .next t) ∧ lengthsRight i (ready i))
      ∧ (State.reset.errcode ≠ 0x01 ∧ (∃ t, exec i State.reset = .next t) ∧ State.reset.slen[0] = 0x00) :=
  ⟨⟨(by decide : (0x00 : Byte) ≠ 0x01), exec_next i _, ready_lengths i⟩, by decide, exec_next i _, by decide⟩

/-- The first request and the last can fail, for every command; the thirteenth of `F5`. -/
theorem witness_AnyRequestCanFail :
    (∀ i, lengthsRight i (replying i 0 .fail) ∧ 0 < requestCount i (replying i 0 .fail)
        ∧ (replying i 0 .fail).reply 0 = .fail)
      ∧ lengthsRight .f5 (replying .f5 12 .fail) ∧ 12 < requestCount .f5 (replying .f5 12 .fail)
      ∧ (∀ j < 12, (replying .f5 12 .fail).reply j = .ok) ∧ (replying .f5 12 .fail).reply 12 = .fail :=
  ⟨fun i => ⟨ready_lengths i, by cases i <;> decide, by cases i <;> rfl⟩, ready_lengths .f5, by decide, by decide, by decide⟩

theorem witness_SilenceLeavesCommandBusy :
    (∀ i, lengthsRight i (replying i 0 .silent) ∧ 0 < requestCount i (replying i 0 .silent)
        ∧ (replying i 0 .silent).reply 0 = .silent)
      ∧ lengthsRight .c1 (replying .c1 1 .silent) ∧ 1 < requestCount .c1 (replying .c1 1 .silent)
      ∧ (∀ j < 1, (replying .c1 1 .silent).reply j = .ok) ∧ (replying .c1 1 .silent).reply 1 = .silent :=
  ⟨fun i => ⟨ready_lengths i, by cases i <;> decide, by cases i <;> rfl⟩, ready_lengths .c1, by decide, by decide, by decide⟩

/-- The three clauses: the reset state, `ready`, and a failing first request. -/
theorem witness_RequestTable (i : Instr) :
    ((∃ t, exec i State.reset = .next t) ∧ ¬ lengthsRight i State.reset)
      ∧ ((∃ t, exec i (ready i) = .next t) ∧ lengthsRight i (ready i)
          ∧ ∀ k < requestCount i (ready i), (ready i).reply k = .ok)
      ∧ (∃ t, exec i (replying i 0 .fail) = .next t) ∧ 0 < requestCount i (replying i 0 .fail)
      ∧ lengthsRight i (replying i 0 .fail) ∧ (replying i 0 .fail).reply 0 = .fail :=
  ⟨⟨exec_next i _, by cases i <;> simp [lengthsRight]⟩, ⟨exec_next i _, ready_lengths i, ready_replies i⟩,
    exec_next i _, by cases i <;> decide, ready_lengths i, by cases i <;> rfl⟩

theorem witness_CommandFrame (i : Instr) : ∃ t, exec i (ready i) = .next t := exec_next i _

theorem witness_sameOperands (i : Instr) : sameOperands i (readyByte i) (readyOther i) := by
  refine ⟨fun p _ => rfl, ?_, fun h => ⟨rfl, ?_⟩⟩
  · cases i <;> decide +kernel
  · subst h
    decide +kernel

theorem witness_ReliableOutcomeDetermined (i : Instr) :
    sameOperands i (readyByte i) (readyOther i)
      ∧ (∀ k < requestCount i (readyByte i), (readyByte i).reply k = .ok ∧ (readyOther i).reply k = .ok)
      ∧ (∃ t, exec i (readyByte i) = .next t) ∧ ∃ t, exec i (readyOther i) = .next t :=
  ⟨witness_sameOperands i, by cases i <;> decide, exec_next i _, exec_next i _⟩

theorem witness_OutcomeFromOperandsAndReplies (i : Instr) :
    sameOperands i (readyByte i) (readyOther i) ∧ sameOutcome (readyByte i) (readyOther i)
      ∧ (∀ k, (readyByte i).reply k = (readyOther i).reply k)
      ∧ (∃ t, exec i (readyByte i) = .next t) ∧ ∃ t, exec i (readyOther i) = .next t :=
  ⟨witness_sameOperands i, ⟨rfl, rfl, rfl, rfl⟩, fun _ => rfl, exec_next i _, exec_next i _⟩

theorem witness_StepRunsLatchedCommand (i : Instr) :
    (ready i).phase = .busy ∧ nextTurn (ready i) = .engine ∧ decodeByte (ready i).op = .ok i := by
  cases i <;> decide

/-- A state in BUSY with a reserved opcode. -/
def reservedBusy : State := { ready .h6 with op := 0x24 }

theorem witness_ReservedOpcodeFails :
    reservedBusy.phase = .busy ∧ nextTurn reservedBusy = .engine
      ∧ decodeByte reservedBusy.op = .error (.reservedOpcode 0x24) := by decide

/-- A state with no outcome, no message and no request meets the invariant. -/
theorem inv_of_no_outcome {s : State} (h1 : s.phase ≠ .error) (h2 : s.phase ≠ .done) (he : s.errcode = 0x00)
    (hl : s.reslen = 0x00) (hr : s.result = zeroBytes 32) (hm : s.msg = []) (ha : s.answered = 0) : Inv s :=
  ⟨⟨by simp [h1, he], by simp [he], by simp [h2, hl], by simp [hl], by simp [hr]⟩,
    ⟨hm ▸ Memory.wf_nil, by simp [hm]⟩, fun _ => ha⟩

theorem ready_inv (i : Instr) : Inv (ready i) :=
  inv_of_no_outcome (by simp [ready]) (by simp [ready]) rfl rfl rfl rfl rfl

theorem step_ready (i : Instr) : step (ready i) = exec i (ready i) := by cases i <;> rfl

theorem step_ready_next (i : Instr) : ∃ t, step (ready i) = .next t := by
  rw [step_ready]
  exact exec_next i _

/-- Every clause: a reserved opcode, wrong lengths, right lengths with and without a failing request, and a reset. -/
theorem witness_ErrorPriority :
    (reservedBusy.phase = .busy ∧ nextTurn reservedBusy = .engine ∧ (∃ r, decodeByte reservedBusy.op = .error r)
        ∧ ∃ t, step reservedBusy = .next t)
      ∧ (let s := { ready .h6 with slen := zeroBytes 8 }
         decodeByte s.op = .ok .h6 ∧ ¬ lengthsRight .h6 s ∧ ∃ t, step s = .next t)
      ∧ (∀ i, Inv (ready i) ∧ decodeByte (ready i).op = .ok i ∧ lengthsRight i (ready i)
          ∧ ∃ t, step (ready i) = .next t)
      ∧ (let s := { ready .h6 with schedule := [.reset] }
         s.phase = .busy ∧ nextTurn s = .reset ∧ ∃ t, step s = .next t) :=
  ⟨⟨by decide, by decide, ⟨_, rfl⟩, _, rfl⟩, ⟨rfl, by simp [lengthsRight], _, rfl⟩,
    fun i => ⟨ready_inv i, by cases i <;> rfl, ready_lengths i, step_ready_next i⟩, rfl, rfl, _, rfl⟩

theorem witness_FailedCommandOffersNothing :
    reservedBusy.phase = .busy ∧ ∃ t, step reservedBusy = .next t ∧ t.phase = .error := ⟨rfl, _, rfl, rfl⟩

theorem witness_OperandsDoNotSurvive :
    reservedBusy.phase = .busy ∧ ∃ t, step reservedBusy = .next t ∧ t.phase ≠ .busy := ⟨rfl, _, rfl, by decide⟩

theorem witness_NothingChangesWhileBusy :
    let s := { hostAt .busy [.wr 0x0000 0x10] with schedule := [.host] }
    s.phase = .busy ∧ ∃ t, step s = .next t ∧ t.phase = .busy := ⟨rfl, _, rfl, rfl⟩

theorem witness_OnlyCompletionOrResetEndsBusy :
    (reservedBusy.phase = .busy ∧ ∃ t, step reservedBusy = .next t ∧ t.phase ≠ .busy)
      ∧ (let s := { ready .h6 with schedule := [.reset] }
         s.phase = .busy ∧ ∃ t, step s = .next t ∧ t.phase ≠ .busy) :=
  ⟨⟨rfl, _, rfl, by decide⟩, rfl, _, rfl, by decide⟩

theorem witness_OutcomePersists :
    (hostAt .done [.wr 0x0000 0x10]).phase ≠ .busy ∧ ∃ t, step (hostAt .done [.wr 0x0000 0x10]) = .next t :=
  ⟨by decide, _, rfl⟩

theorem witness_ErrorLeftByAcceptanceOrReset :
    (hostAt .error [.wr 0x0000 0x10]).phase = .error ∧ ∃ t, step (hostAt .error [.wr 0x0000 0x10]) = .next t :=
  ⟨rfl, _, rfl⟩

/-- A host's write and a completion, at the borders of the operand registers. -/
theorem witness_OperandsChangeOnlyByTheHost :
    (Inv (hostAt .idle [.wr 0x01FF 0xee]) ∧ ∃ t, step (hostAt .idle [.wr 0x01FF 0xee]) = .next t)
      ∧ (Inv (ready .h6) ∧ ∃ t, step (ready .h6) = .next t)
      ∧ (∀ off ∈ ([0x0004, 0x0005, 0x0008, 0x000F, 0x0100, 0x01FF, 0x1000, 0xFFFF] : List Offset),
          (0x0004 ≤ off.toNat ∧ off.toNat ≤ 0x0005) ∨ (0x0008 ≤ off.toNat ∧ off.toNat ≤ 0x000F)
            ∨ (0x0100 ≤ off.toNat ∧ off.toNat ≤ 0x01FF) ∨ 0x1000 ≤ off.toNat) := by
  refine ⟨⟨inv_of_no_outcome ?_ ?_ rfl rfl rfl rfl rfl, _, rfl⟩, ⟨ready_inv .h6, step_ready_next .h6⟩, by simp⟩ <;>
    simp [hostAt]

theorem witness_CommandLifeInTwoSteps (i : Instr) :
    let s := hostAt .done [.wr 0x0000 (opcode i)]
    s.phase ≠ .busy ∧ s.schedule = [] ∧ s.script = .wr 0x0000 (opcode i) :: [] := ⟨by simp [hostAt], rfl, rfl⟩

/-- Two turns without an answer, then an answer to each of 13 requests. -/
theorem witness_AnsweredCommandCompletes (i : Instr) :
    let s := { ready i with replies := List.replicate 2 .silent ++ List.replicate 13 .ok }
    s.phase = .busy ∧ s.schedule = [] ∧ (∀ r ∈ List.replicate 13 Reply.ok, r ≠ .silent)
      ∧ ∀ j, decodeByte s.op = .ok j → requestCount j s ≤ s.answered + (List.replicate 13 Reply.ok).length := by
  refine ⟨rfl, rfl, by decide, fun j _ => ?_⟩
  cases j <;> simp [requestCount, ready]

theorem witness_ResetState :
    reservedBusy.phase = .busy ∧ ∃ t, step reservedBusy = .next t ∧ t.phase ≠ .busy := ⟨rfl, _, rfl, by decide⟩

/-- A reset with a command in flight; a step that leads to IDLE; a silent collaborator with the reset as the next turn. -/
theorem witness_ResetAbandonsCommand :
    nextTurn { ready .f5 with schedule := [.reset] } = .reset
      ∧ (∃ t, step State.reset = .next t ∧ t.phase = .idle)
      ∧ (let s := { replying .f5 12 .silent with schedule := [.reset] }
         s.phase = .busy ∧ decodeByte s.op = .ok .f5 ∧ lengthsRight .f5 s ∧ 12 < requestCount .f5 s
          ∧ (∀ j < 12, s.reply j = .ok) ∧ s.reply 12 = .silent ∧ ∃ t, step s = .next t ∧ t.phase ≠ .busy) :=
  ⟨rfl, ⟨_, rfl, rfl⟩, rfl, rfl, ready_lengths .f5, by decide, by decide, by decide, _, rfl, by decide⟩

theorem witness_StepKeepsInv (i : Instr) : Inv (ready i) ∧ ∃ t, step (ready i) = .next t :=
  ⟨ready_inv i, step_ready_next i⟩

end Sys2Proof.Tests
end

section
/-! PROOFS. The status state of `10_state.md`: what ends a command and what does not, which registers hold operands and how they
change, and the invariant. -/

namespace Sys2Proof.Machine

open Sys2Proof.Safety

/-! ### The `STATUS` register -/

/-- Offset `0x0001` is `STATUS` (R61). -/
theorem regRead_status (s : State) : s.regRead 0x0001 = statusByte s.phase := by
  have h : regAt 0x0001 = .status := regAt_of_offset rfl
  rw [State.regRead, h]

/-- Bits 7:3 of `STATUS` are 0 in every phase (R26). -/
theorem statusByte_getLsbD_high (p : Phase) {b : Nat} (hb : 3 ≤ b) : (statusByte p).getLsbD b = false := by
  have hlt : (statusByte p).toNat < 2 ^ 3 := by cases p <;> decide
  exact Nat.testBit_lt_two_pow (hlt.trans_le (Nat.pow_le_pow_right (by decide) hb))

/-! ### The three shapes a command's turn leaves the engine in -/

/-- The length of a command's output is the one R93 gives it, whatever the cipher. -/
theorem bodyOf_value_length (E : Block → Block → Block) (i : Instr) (s : State) :
    ((bodyOf i s).value E).length = resultLength i := by
  cases i <;>
    simp [bodyOf, resultLength, progSubkeys, progCmac, progAh, progC1, progS1, progG2, progF4, progF5, progF6, progH6]

/-- R29: the output lengths of the commands. -/
theorem resultLength_mem (i : Instr) : resultLength i ∈ [3, 4, 16, 32] := by cases i <;> decide

/-- A command delivers an output of a legal length, fails with a legal code, or waits. -/
theorem exec_shape {i : Instr} {s t : State} (h : exec i s = .next t) :
    (∃ reqs out, out.length ∈ [3, 4, 16, 32] ∧ t = delivered s reqs out)
      ∨ (∃ reqs, ∃ code ∈ ([0x01, 0x02, 0x03] : List Byte), t = failed s reqs code)
      ∨ ∃ reqs, t = waiting s reqs := by
  rcases exec_cases h with ⟨-, ht⟩ | ⟨-, -, ht⟩ | ⟨-, k, -, -, -, ht⟩ | ⟨-, k, -, -, -, ht⟩
  · exact .inr (.inl ⟨_, 0x01, by decide, ht⟩)
  · exact .inl ⟨_, _, bodyOf_value_length _ i s ▸ resultLength_mem i, ht⟩
  · exact .inr (.inl ⟨_, 0x02, by decide, ht⟩)
  · exact .inr (.inr ⟨_, ht⟩)

/-- Outside BUSY the engine has nothing to do (R33). -/
theorem engineTurn_idle {s : State} (hb : s.phase ≠ .busy) : engineTurn s = .next s := if_neg hb

/-- The engine's turn in BUSY has the same three shapes, a reserved opcode included (R253). -/
theorem engineTurn_busy_shape {s t : State} (hb : s.phase = .busy) (h : engineTurn s = .next t) :
    (∃ reqs out, out.length ∈ [3, 4, 16, 32] ∧ t = delivered s reqs out)
      ∨ (∃ reqs, ∃ code ∈ ([0x01, 0x02, 0x03] : List Byte), t = failed s reqs code)
      ∨ ∃ reqs, t = waiting s reqs := by
  rcases engineTurn_cases h with ⟨hb', -⟩ | ⟨-, i, -, he⟩ | ⟨-, -, ht⟩
  · exact absurd hb hb'
  · exact exec_shape he
  · exact .inr (.inl ⟨_, 0x03, by decide, ht⟩)

/-- The engine's turn in BUSY completes the command, its operand storage then being that of reset (R36, R128), or waits. -/
theorem engineTurn_busy_completes_or_waits {s t : State} (hb : s.phase = .busy) (h : engineTurn s = .next t) :
    (t.phase ≠ .busy ∧ t.slots = State.reset.slots ∧ t.slen = State.reset.slen ∧ t.msg = State.reset.msg
        ∧ t.msgLen = State.reset.msgLen)
      ∨ ∃ reqs, t = waiting s reqs := by
  rcases engineTurn_busy_shape hb h with ⟨reqs, out, -, rfl⟩ | ⟨reqs, code, -, rfl⟩ | hw
  · exact .inl ⟨Phase.noConfusion, rfl, rfl, rfl, rfl⟩
  · exact .inl ⟨Phase.noConfusion, rfl, rfl, rfl, rfl⟩
  · exact .inr hw

/-- No transaction of the host ends a command (R130). -/
theorem hostTurn_keeps_busy {s t : State} (hb : s.phase = .busy) (h : hostTurn s = .next t) : t.phase = .busy := by
  rcases hostTurn_cases h with rfl | ⟨off, v, rest, -, rfl⟩ | ⟨off, script, rfl⟩
  · exact hb
  · rw [regWrite_busy (s := { s with script := rest }) hb]
    exact hb
  · exact hb

/-- Every step out of BUSY leaves the operand storage of reset. -/
theorem step_out_of_busy_operands {s t : State} (hb : s.phase = .busy) (h : step s = .next t) (ht : t.phase ≠ .busy) :
    t.slots = State.reset.slots ∧ t.slen = State.reset.slen ∧ t.msg = State.reset.msg
      ∧ t.msgLen = State.reset.msgLen := by
  rcases step_cases h with ⟨-, hh⟩ | ⟨-, he⟩ | ⟨-, rfl⟩ | ⟨-, rfl⟩
  · exact absurd (hostTurn_keeps_busy (s := turnTaken s) hb hh) ht
  · rcases engineTurn_busy_completes_or_waits (s := turnTaken s) hb he with ⟨-, hz⟩ | ⟨reqs, rfl⟩
    · exact hz
    · exact absurd hb ht
  · exact ⟨rfl, rfl, rfl, rfl⟩
  · exact absurd hb ht

/-! ### Operand registers and outcome registers -/

/-- The registers that show the phase or the outcome of the last command (`10_state.md` R26, R28 to R30). The others hold
operands or nothing. -/
def Reg.isOutcome : Reg → Bool
  | .status | .errcode | .reslen | .result _ => true
  | _ => false

/-- At and above `MSG_LEN`, outside the result window, no offset reaches an outcome register (R61). -/
theorem regAt_isOutcome_eq_false {off : Offset}
    (h : (0x0004 ≤ off.toNat ∧ off.toNat ≤ 0x0005) ∨ (0x0008 ≤ off.toNat ∧ off.toNat ≤ 0x000F)
      ∨ (0x0100 ≤ off.toNat ∧ off.toNat ≤ 0x01FF) ∨ 0x1000 ≤ off.toNat) : (regAt off).isOutcome = false := by
  rcases regAt_offset off with hr | hr
  · rw [hr]; rfl
  cases hreg : regAt off with
  | status | errcode | reslen | result =>
    rw [hreg] at hr
    have hoff := Option.some.inj hr
    omega
  | _ => rfl

/-- A register that shows no outcome reads the same in two states with the same operand storage. -/
theorem regRead_eq_of_operands {s t : State} {off : Offset} (ho : (regAt off).isOutcome = false)
    (hslots : t.slots = s.slots) (hslen : t.slen = s.slen) (hmsg : t.msg = s.msg) (hlen : t.msgLen = s.msgLen) :
    t.regRead off = s.regRead off := by
  unfold State.regRead
  cases hr : regAt off with
  | status | errcode | reslen | result => rw [hr] at ho; cases ho
  | _ => simp only [hslots, hslen, hmsg, hlen]

/-- R36: every register reads `0x00` after reset. -/
@[simp] theorem reset_regRead (off : Offset) : State.reset.regRead off = 0x00 := by
  unfold State.regRead
  cases regAt off with
  | status => rfl
  | msgLenHi => rfl
  | msgLenLo => rfl
  | _ => simp

/-- What a host write outside BUSY does at its own offset: it starts a command, or changes nothing, or reads back. -/
theorem regRead_regWrite_same {s : State} (hb : s.phase ≠ .busy) (hm : Memory.wf s.msg) (off : Offset) (v : Byte) :
    regAt off = .cmd ∨ s.regWrite off v = s ∨ (s.regWrite off v).regRead off = v := by
  unfold State.regWrite State.regRead
  rw [if_neg hb]
  cases regAt off with
  | cmd => exact .inl rfl
  | msgLenHi => exact .inr (.inr (msgLenHi_append v _))
  | msgLenLo => exact .inr (.inr (msgLenLo_append _ v))
  | slen n => exact .inr (.inr (Vector.getElem_set_self n.isLt))
  | slot n j => exact .inr (.inr (by simp))
  | msg j => exact .inr (.inr (Memory.read_write_same hm j v))
  | _ => exact .inr (.inl rfl)

/-- A write to `CMD` outside BUSY is an acceptance (R120, R122). -/
theorem regWrite_cmd {s : State} {off : Offset} (hb : s.phase ≠ .busy) (hc : regAt off = .cmd) (v : Byte) :
    s.regWrite off v = accept v s := by
  simp [State.regWrite, hb, hc]

/-- A host write leaves a register that shows no outcome reading as before, or stands at its offset outside BUSY and reads
back. -/
theorem regRead_regWrite_operand {s : State} {off : Offset} (hm : Memory.wf s.msg) (ho : (regAt off).isOutcome = false)
    (off' : Offset) (v : Byte) :
    (s.regWrite off' v).regRead off = s.regRead off
      ∨ (off' = off ∧ s.phase ≠ .busy ∧ (s.regWrite off' v).regRead off = v) := by
  by_cases hb : s.phase = .busy
  · exact .inl (by rw [regWrite_busy hb])
  by_cases hc : regAt off' = .cmd
  · rw [regWrite_cmd hb hc]
    exact .inl (regRead_eq_of_operands ho rfl rfl rfl rfl)
  by_cases heq : off' = off
  · subst heq
    rcases regRead_regWrite_same hb hm off' v with h | h | h
    · exact absurd h hc
    · exact .inl (by rw [h])
    · exact .inr ⟨rfl, hb, h⟩
  · exact .inl (regRead_regWrite_other v (Ne.symm heq) (.inr hc))

end Sys2Proof.Machine

namespace Sys2Proof.Safety

open Sys2Proof.Machine

/-! ### The invariant -/

/-- In BUSY and IDLE, with no outcome of a command to show, the status registers are consistent. -/
theorem StatusInv.of_no_outcome {s : State} (hphase : s.phase = .idle ∨ s.phase = .busy) (herr : s.errcode = 0x00)
    (hlen : s.reslen = 0x00) (hres : s.result = zeroBytes 32) : StatusInv s := by
  constructor
  · rcases hphase with h | h <;> simp [h, herr]
  · simp [herr]
  · rcases hphase with h | h <;> simp [h, hlen]
  · simp [hlen]
  · simp [hres]

/-- The consistency of the status registers depends on nothing else. -/
theorem StatusInv.of_sameOutcome {s t : State} (hs : StatusInv s) (h : sameOutcome t s) : StatusInv t := by
  obtain ⟨hphase, herr, hlen, hres⟩ := h
  constructor
  · rw [hphase, herr]; exact hs.errorIff
  · rw [herr]; exact hs.errcodeLegal
  · rw [hphase, hlen]; exact hs.doneIff
  · rw [hlen]; exact hs.reslenLegal
  · rw [hlen, hres]; exact hs.resultTail

/-- A successful completion leaves consistent status registers: the output, and `0x00` beyond it. -/
theorem StatusInv.of_delivered (s : State) (reqs : List Request) {out : List Byte}
    (hout : out.length ∈ [3, 4, 16, 32]) : StatusInv (delivered s reqs out) := by
  have hlegal : ∀ n ∈ [3, 4, 16, 32], BitVec.ofNat 8 n ≠ 0x00 ∧ BitVec.ofNat 8 n ∈ ([0, 3, 4, 16, 32] : List Byte)
      ∧ (BitVec.ofNat 8 n).toNat = n := by decide
  obtain ⟨hne, hmem, htoNat⟩ := hlegal _ hout
  constructor
  · exact ⟨Phase.noConfusion, fun h => absurd rfl h⟩
  · exact List.mem_cons_self
  · exact ⟨fun _ => hne, fun _ => rfl⟩
  · exact hmem
  · intro j hj
    have hj' : out.length ≤ j.val := htoNat ▸ hj
    simp [delivered, ended, List.getElem?_eq_none hj']

/-- A failed completion leaves consistent status registers: a code and no result. -/
theorem StatusInv.of_failed (s : State) (reqs : List Request) {code : Byte}
    (hcode : code ∈ ([0x01, 0x02, 0x03] : List Byte)) : StatusInv (failed s reqs code) := by
  have hlegal : ∀ c ∈ ([0x01, 0x02, 0x03] : List Byte), c ≠ 0x00 := by decide
  constructor
  · exact ⟨fun _ => hlegal _ hcode, fun _ => rfl⟩
  · exact List.mem_cons_of_mem _ hcode
  · exact ⟨Phase.noConfusion, fun h => absurd rfl h⟩
  · exact List.mem_cons_self
  · intro j _
    simp [failed, ended]

/-- The empty message buffer is canonical and in bounds. -/
theorem MemoryInv.of_nil {s : State} (h : s.msg = []) : MemoryInv s :=
  ⟨h ▸ Memory.wf_nil, by simp [h]⟩

/-- The same message buffer is as good. -/
theorem MemoryInv.of_msg_eq {s t : State} (hs : MemoryInv s) (h : t.msg = s.msg) : MemoryInv t :=
  ⟨h ▸ hs.canonical, h ▸ hs.inBuffer⟩

/-- A host write keeps the message buffer canonical and inside `MSG_MAX` (R23, R61). -/
theorem MemoryInv.of_regWrite {s : State} (hs : MemoryInv s) (off : Offset) (v : Byte) :
    MemoryInv (s.regWrite off v) := by
  rcases regWrite_msg s off v with h | ⟨j, hj, h⟩
  · exact hs.of_msg_eq h
  · exact ⟨h ▸ Memory.write_wf hs.canonical j v, h ▸ Memory.write_bounded hs.inBuffer hj v⟩

/-- The invariant depends on nothing but the outcome registers, the message buffer and the count of answered requests. -/
theorem Inv.of_same {s t : State} (hs : Inv s) (h : sameOutcome t s) (hm : t.msg = s.msg)
    (ha : t.answered = s.answered) : Inv t :=
  ⟨hs.status.of_sameOutcome h, hs.memory.of_msg_eq hm, fun hb => ha.trans (hs.portIdle (h.1 ▸ hb))⟩

/-- The engine's state at reset meets the invariant, whatever the other agents do. -/
theorem Inv.of_resetEvent (s : State) : Inv (resetEvent s) :=
  ⟨.of_no_outcome (.inl rfl) rfl rfl rfl, .of_nil rfl, fun _ => rfl⟩

/-- A host write keeps the invariant: it is an acceptance or touches operand storage only. -/
theorem Inv.of_regWrite {s : State} (hs : Inv s) (off : Offset) (v : Byte) : Inv (s.regWrite off v) := by
  have hm := hs.memory.of_regWrite off v
  rcases regWrite_cases s off v with ⟨-, -, h⟩ | ⟨slots, slen, msg, msgLen, h⟩
  · rw [h] at hm ⊢
    exact ⟨.of_no_outcome (.inr rfl) rfl rfl rfl, hm, fun _ => rfl⟩
  · rw [h] at hm ⊢
    exact ⟨hs.status.of_sameOutcome ⟨rfl, rfl, rfl, rfl⟩, hm, hs.portIdle⟩

/-- The host's turn keeps the invariant. -/
theorem Inv.of_hostTurn {s t : State} (hs : Inv s) (h : hostTurn s = .next t) : Inv t := by
  rcases hostTurn_cases h with rfl | ⟨off, v, rest, -, rfl⟩ | ⟨off, script, rfl⟩
  · exact hs
  · have hrest : Inv { s with script := rest } := hs.of_same ⟨rfl, rfl, rfl, rfl⟩ rfl rfl
    exact hrest.of_regWrite off v
  · exact hs.of_same ⟨rfl, rfl, rfl, rfl⟩ rfl rfl

/-- The engine's turn keeps the invariant: a completion sets the status registers anew, and a waiting command is BUSY. -/
theorem Inv.of_engineTurn {s t : State} (hs : Inv s) (h : engineTurn s = .next t) : Inv t := by
  by_cases hb : s.phase = .busy
  · rcases engineTurn_busy_shape hb h with ⟨reqs, out, hout, rfl⟩ | ⟨reqs, code, hcode, rfl⟩ | ⟨reqs, rfl⟩
    · exact ⟨.of_delivered s reqs hout, .of_nil rfl, fun _ => rfl⟩
    · exact ⟨.of_failed s reqs hcode, .of_nil rfl, fun _ => rfl⟩
    · exact ⟨hs.status.of_sameOutcome ⟨rfl, rfl, rfl, rfl⟩, hs.memory.of_msg_eq rfl, fun hn => absurd hb hn⟩
  · rw [engineTurn_idle hb] at h
    cases h
    exact hs

end Sys2Proof.Safety

/-! ### The statements -/

open Sys2Proof Sys2Proof.Machine Sys2Proof.Safety

/-- Settles O57, turn by turn: each agent's turn keeps the invariant, and taking the turn off the schedule does. -/
theorem stepKeepsInv : Obligations.StepKeepsInv := by
  intro s t hs h
  have hs' : Inv (turnTaken s) := hs.of_same ⟨rfl, rfl, rfl, rfl⟩ rfl rfl
  rcases step_cases h with ⟨-, hh⟩ | ⟨-, he⟩ | ⟨-, rfl⟩ | ⟨-, rfl⟩
  · exact hs'.of_hostTurn hh
  · exact hs'.of_engineTurn he
  · exact .of_resetEvent _
  · exact hs'

/-- Settles O56: reset, taken in the reset state itself, leaves what meets the invariant. -/
theorem resetMeetsInv : Obligations.ResetMeetsInv := Inv.of_resetEvent State.reset

/-- Settles O39: each of the three shapes a command ends in names these fields. -/
theorem commandFrame : Obligations.CommandFrame := by
  intro i s t h
  rcases exec_shape h with ⟨reqs, out, -, rfl⟩ | ⟨reqs, code, -, rfl⟩ | ⟨reqs, rfl⟩
  · exact ⟨rfl, rfl, rfl, rfl, rfl, rfl⟩
  · exact ⟨rfl, rfl, rfl, rfl, rfl, rfl⟩
  · exact ⟨rfl, rfl, rfl, rfl, rfl, rfl⟩

/-- Settles O51, turn by turn: the host writes at its own offset or changes nothing here, the engine completes or changes
nothing here, and a completion and a reset leave the operand storage of reset, which reads `0x00`. -/
theorem operandsChangeOnlyByTheHost : Obligations.OperandsChangeOnlyByTheHost := by
  intro s t off hs h hoff
  have ho := regAt_isOutcome_eq_false hoff
  rcases step_cases h with ⟨hn, hh⟩ | ⟨hn, he⟩ | ⟨hn, rfl⟩ | ⟨-, rfl⟩
  · rcases hostTurn_cases hh with rfl | ⟨off', v, rest, hscript, rfl⟩ | ⟨off', script, rfl⟩
    · exact .inl rfl
    · rcases regRead_regWrite_operand (s := { turnTaken s with script := rest }) hs.memory.canonical ho off' v with
        hsame | ⟨rfl, hb, hv⟩
      · exact .inl hsame
      · exact .inr (.inl ⟨hn, hb, v, rest, hscript, hv⟩)
    · exact .inl rfl
  · by_cases hb : s.phase = .busy
    · rcases engineTurn_busy_completes_or_waits (s := turnTaken s) hb he with ⟨ht, hslots, hslen, hmsg, hlen⟩ | ⟨reqs, rfl⟩
      · have hzero := (regRead_eq_of_operands ho hslots hslen hmsg hlen).trans (reset_regRead off)
        exact .inr (.inr ⟨hzero, .inl ⟨hb, hn, ht⟩⟩)
      · exact .inl rfl
    · rw [engineTurn_idle (s := turnTaken s) hb] at he
      cases he
      exact .inl rfl
  · exact .inr (.inr ⟨reset_regRead off, .inr hn⟩)
  · exact .inl rfl

/-- Settles O10, phase by phase. -/
theorem statusIsOneHot : Obligations.StatusIsOneHot := by
  intro s
  rw [regRead_status]
  refine ⟨?_, ?_, ?_, fun b hb => statusByte_getLsbD_high s.phase hb, ?_⟩ <;> cases s.phase <;> decide

/-- Settles O54: every register reads `0x00` after reset, and every step out of BUSY leaves that operand storage. -/
theorem resetState : Obligations.ResetState := by
  refine ⟨reset_regRead, ⟨?_, ?_, ?_, rfl⟩, rfl, rfl, rfl, ?_, fun s t => step_out_of_busy_operands⟩
  · simp
  · simp
  · exact Memory.read_nil
  · simp
end

section
/-! PROOFS. The register space of `20_memory.md`: which register an offset reaches, what one host transaction does, and which
steps are refused. -/

namespace Sys2Proof.Machine

open Sys2Proof.Safety

/-! ### Which register an offset reaches -/

/-- Every register stands inside the 16-bit offset range (R60, R61). -/
theorem Reg.offset_lt {r : Reg} {a : Nat} (h : r.offset = some a) : a < 2 ^ 16 := by
  have hmax := Config.msgMax_le
  cases r with
  | msg j =>
    simp only [Reg.offset] at h
    split at h
    · cases h; omega
    · cases h
  | reserved => cases h
  | _ => cases h; omega

/-- The register at a register's offset, the offset written as a number. -/
theorem regAt_ofNat {r : Reg} {a : Nat} (h : r.offset = some a) : regAt (BitVec.ofNat 16 a) = r :=
  regAt_of_offset (by rw [h, BitVec.toNat_ofNat, Nat.mod_eq_of_lt (Reg.offset_lt h)])

/-- Only offset `0x0000` is `CMD` (R61). -/
theorem eq_zero_of_regAt_cmd {off : Offset} (h : regAt off = .cmd) : off = 0x0000 := by
  have h0 : regAt 0x0000 = .cmd := regAt_of_offset rfl
  exact regAt_injective (h.trans h0.symm) (by simp [h])

/-- The reserved rows of R61. -/
theorem regAt_reserved {off : Offset}
    (h : (0x0006 ≤ off.toNat ∧ off.toNat ≤ 0x0007) ∨ (0x0010 ≤ off.toNat ∧ off.toNat ≤ 0x001F)
      ∨ (0x0040 ≤ off.toNat ∧ off.toNat ≤ 0x00FF) ∨ (0x0200 ≤ off.toNat ∧ off.toNat ≤ 0x0FFF)
      ∨ 0x1000 + Config.msgMax ≤ off.toNat) : regAt off = .reserved := by
  rw [regAt_high (by omega), dif_neg (by omega), dif_neg (by omega), dif_neg (by omega), if_neg (by omega)]

/-! ### What a read returns -/

/-- A reserved offset reads `0x00` (R68). -/
theorem regRead_reserved {off : Offset} (h : regAt off = .reserved) (s : State) : s.regRead off = 0x00 := by
  rw [State.regRead, h]

/-- Offset `0x0004` is the high half of `MSG_LEN` (R61). -/
theorem regRead_msgLenHi (s : State) : s.regRead 0x0004 = msgLenHi s.msgLen := by
  have h : regAt 0x0004 = .msgLenHi := regAt_of_offset rfl
  rw [State.regRead, h]

/-- Offset `0x0005` is the low half of `MSG_LEN` (R61). -/
theorem regRead_msgLenLo (s : State) : s.regRead 0x0005 = msgLenLo s.msgLen := by
  have h : regAt 0x0005 = .msgLenLo := regAt_of_offset rfl
  rw [State.regRead, h]

/-- Byte `j` of slot `n` is read at `0x0100 + 32*n + j` (R61). -/
theorem regRead_slot (s : State) (n : Fin 8) (j : Fin 32) :
    s.regRead (BitVec.ofNat 16 (0x0100 + 32 * n.val + j.val)) = s.slots[n][j] := by
  rw [State.regRead, regAt_ofNat (r := .slot n j) rfl]

/-- Byte `j` of the message buffer is read at `0x1000 + j` (R61). -/
theorem regRead_msg (s : State) {j : Nat} (hj : j < Config.msgMax) :
    s.regRead (BitVec.ofNat 16 (0x1000 + j)) = s.msg.read j := by
  rw [State.regRead, regAt_ofNat (r := .msg j) (if_pos hj)]

/-- Byte `j` of `RESULT` is read at `0x0020 + j` (R61). -/
theorem regRead_result (s : State) (j : Fin 32) : s.regRead (BitVec.ofNat 16 (0x0020 + j.val)) = s.result[j] := by
  rw [State.regRead, regAt_ofNat (r := .result j) rfl]

/-- Taking a statement off the script and noting a byte read touch no register. -/
theorem hostRead_sameRegisters (off : Offset) (script : List HostStmt) (s : State) :
    sameRegisters (hostRead off { s with script := script }) s := fun _ => rfl

/-! ### What a write does -/

/-- A reserved offset ignores writes (R68). -/
theorem regWrite_reserved {off : Offset} (h : regAt off = .reserved) (s : State) (v : Byte) : s.regWrite off v = s := by
  rw [State.regWrite, h, ite_self]

/-- A write to `0x0004` outside BUSY replaces the high half of `MSG_LEN` (`40_command_lifecycle.md` R120). -/
theorem regWrite_msgLenHi {s : State} (hb : s.phase ≠ .busy) (v : Byte) :
    s.regWrite 0x0004 v = { s with msgLen := v ++ msgLenLo s.msgLen } := by
  have h : regAt 0x0004 = .msgLenHi := regAt_of_offset rfl
  rw [State.regWrite, if_neg hb, h]

/-- A write to `0x0005` outside BUSY replaces the low half of `MSG_LEN` (`40_command_lifecycle.md` R120). -/
theorem regWrite_msgLenLo {s : State} (hb : s.phase ≠ .busy) (v : Byte) :
    s.regWrite 0x0005 v = { s with msgLen := msgLenHi s.msgLen ++ v } := by
  have h : regAt 0x0005 = .msgLenLo := regAt_of_offset rfl
  rw [State.regWrite, if_neg hb, h]

/-- A write that is no acceptance leaves the status of the engine and everything outside it alone. -/
theorem regWrite_frame {s : State} {off : Offset} (hc : s.phase = .busy ∨ regAt off ≠ .cmd) (v : Byte) :
    (s.regWrite off v).phase = s.phase ∧ (s.regWrite off v).op = s.op
      ∧ (s.regWrite off v).answered = s.answered ∧ (s.regWrite off v).requests = s.requests
      ∧ sameOutside (s.regWrite off v) s := by
  rcases regWrite_cases s off v with ⟨hb, hcmd, -⟩ | ⟨slots, slen, msg, msgLen, h⟩
  · exact (hc.elim hb (absurd hcmd)).elim
  · rw [h]
    exact ⟨rfl, rfl, rfl, rfl, rfl, rfl, rfl, rfl, rfl⟩

/-- At its own offset a write that is no acceptance reads back or changes nothing. -/
theorem regRead_regWrite_self_or_unchanged {s : State} {off : Offset} (hm : Memory.wf s.msg)
    (hc : s.phase = .busy ∨ regAt off ≠ .cmd) (v : Byte) :
    (s.regWrite off v).regRead off = v ∨ s.regWrite off v = s := by
  by_cases hb : s.phase = .busy
  · exact .inr (regWrite_busy hb off v)
  · rcases regRead_regWrite_same hb hm off v with hcmd | hsame | hv
    · exact absurd hcmd (hc.resolve_left hb)
    · exact .inr hsame
    · exact .inl hv

/-! ### The host's turn on a transaction, and which turns are refused -/

/-- `WR off, v` (`30_encoding.md` R96). -/
theorem hostTurn_wr {s : State} {off : Offset} {v : Byte} {rest : List HostStmt} (h : s.script = .wr off v :: rest) :
    hostTurn s = .next (State.regWrite { s with script := rest } off v) := by
  simp only [hostTurn, h]

/-- `RD off` (`30_encoding.md` R96). -/
theorem hostTurn_rd {s : State} {off : Offset} {rest : List HostStmt} (h : s.script = .rd off :: rest) :
    hostTurn s = .next (hostRead off { s with script := rest }) := by
  simp only [hostTurn, h]

/-- The statements that are not one byte wide are the wide accesses (R66). -/
theorem HostStmt.eq_wide_of_width_ne_one {stmt : HostStmt} (h : stmt.width ≠ 1) : ∃ off more, stmt = .wide off more := by
  cases stmt with
  | wide off more => exact ⟨off, more, rfl⟩
  | _ => exact absurd rfl h

/-- An access that is not one byte wide is refused on the host's turn (R66). -/
theorem hostTurn_refused {s : State} {stmt : HostStmt} {rest : List HostStmt} (h : s.script = stmt :: rest)
    (hw : stmt.width ≠ 1) : hostTurn s = .refused .wideAccess := by
  obtain ⟨off, more, rfl⟩ := HostStmt.eq_wide_of_width_ne_one hw
  simp only [hostTurn, h]

/-- The host's turn answers a next state unless its script opens with an access that is not one byte wide (R65). -/
theorem hostTurn_next {s : State} (h : ¬ ∃ stmt rest, s.script = stmt :: rest ∧ stmt.width ≠ 1) :
    ∃ t, hostTurn s = .next t := by
  unfold hostTurn
  split
  · exact ⟨_, rfl⟩
  · exact ⟨_, rfl⟩
  · exact ⟨_, rfl⟩
  · split
    · exact ⟨_, rfl⟩
    · exact ⟨_, rfl⟩
  · exact ⟨_, rfl⟩
  next off more rest hs =>
    have hw : (HostStmt.wide off more).width ≠ 1 := by simp [HostStmt.width]
    exact absurd ⟨_, rest, hs, hw⟩ h

/-- The engine's turn always answers a next state (`60_exceptions.md` R250: an error is the outcome of a command). -/
theorem engineTurn_next (s : State) : ∃ t, engineTurn s = .next t := by
  unfold engineTurn
  split
  · split
    · exact exec_next _ s
    · exact ⟨_, rfl⟩
  · exact ⟨_, rfl⟩

/-- The host's turn on an access that is not one byte wide is refused. -/
theorem step_refused {s : State} (hn : nextTurn s = .host)
    (hw : ∃ stmt rest, s.script = stmt :: rest ∧ stmt.width ≠ 1) : step s = .refused .wideAccess := by
  obtain ⟨stmt, rest, hs, hw⟩ := hw
  rw [step, hn]
  exact hostTurn_refused (s := turnTaken s) hs hw

/-- Every other step answers a next state. -/
theorem step_next {s : State}
    (h : ¬ (nextTurn s = .host ∧ ∃ stmt rest, s.script = stmt :: rest ∧ stmt.width ≠ 1)) : ∃ t, step s = .next t := by
  unfold step
  cases hn : nextTurn s with
  | host => exact hostTurn_next (s := turnTaken s) fun hw => h ⟨hn, hw⟩
  | engine => exact engineTurn_next (turnTaken s)
  | reset => exact ⟨_, rfl⟩
  | strayReply => exact ⟨_, rfl⟩

end Sys2Proof.Machine

/-! ### The statements -/

open Sys2Proof Sys2Proof.Machine Sys2Proof.Safety

/-- Settles O7: a read touches the host's record only; a write is an acceptance at `CMD` outside BUSY, or falls under the
frame of every other write. -/
theorem accessSideEffects : Obligations.AccessSideEffects := by
  constructor
  · intro s t off rest hs h
    rw [hostTurn_rd hs] at h
    injection h with h
    exact h ▸ hostRead_sameRegisters off rest s
  · intro s off v hm
    by_cases hacc : s.phase ≠ .busy ∧ regAt off = .cmd
    · obtain ⟨hb, hcmd⟩ := hacc
      exact .inl ⟨hb, eq_zero_of_regAt_cmd hcmd, regWrite_cmd hb hcmd v⟩
    · have hc : s.phase = .busy ∨ regAt off ≠ .cmd := by
        rwa [not_and_or, not_ne_iff] at hacc
      exact .inr ⟨fun _ hne => regRead_regWrite_other v hne hc, regRead_regWrite_self_or_unchanged hm hc v,
        regWrite_frame hc v⟩

/-- Settles O9: the halves as read make the number, and each write replaces its own half. -/
theorem msgLenHalves : Obligations.MsgLenHalves := by
  intro s
  constructor
  · rw [regRead_msgLenHi, regRead_msgLenLo]
    exact msgLen_halves s.msgLen
  · intro hb hi lo
    constructor
    · rw [regWrite_msgLenHi hb, regWrite_msgLenLo (by exact hb), msgLenHi_append]
      exact toNat_append_bytes hi lo
    · rw [regWrite_msgLenLo hb, regWrite_msgLenHi (by exact hb), msgLenLo_append]
      exact toNat_append_bytes hi lo

/-- Settles O13: the wide access on the host's turn is refused, and every other step answers a next state, so that it is not
refused. -/
theorem onlyWideAccessStops : Obligations.OnlyWideAccessStops := by
  refine ⟨fun s => ⟨⟨?_, fun ⟨hn, hw⟩ => step_refused hn hw⟩, step_next⟩, ?_, ?_⟩
  · intro href
    by_contra h
    obtain ⟨t, ht⟩ := step_next h
    rw [href] at ht
    cases ht
  · intro off width hwidth
    exact Nat.sub_add_cancel hwidth
  · exact fun _ => HostStmt.eq_wide_of_width_ne_one

/-- Settles O6: a reserved offset reads `0x00`, ignores the write, and the host's turn goes through. -/
theorem reservedOffsetsInert : Obligations.ReservedOffsetsInert := by
  intro s off v h
  have hr := regAt_reserved h
  refine ⟨regRead_reserved hr s, regWrite_reserved hr s v, fun rest => ?_, fun rest => ?_⟩
  · rw [hostTurn_wr rfl, regWrite_reserved hr]
  · rw [hostTurn_rd rfl, hostRead, regRead_reserved hr]

/-- Settles O8: the field, the message and the result are read byte by byte at the offsets of R61. -/
theorem fieldsAtAscendingOffsets : Obligations.FieldsAtAscendingOffsets := by
  intro s
  refine ⟨fun n len h i => ?_, fun i hi hmax => ?_, regRead_result s⟩
  · rw [regRead_slot s n ⟨i, by omega⟩]
    simp [State.opnd]
  · have hlen : i < s.msgLen.toNat := by simpa [State.message] using hi
    rw [regRead_msg s (hlen.trans_le hmax)]
    simp [State.message]
end

section
/-! PROOFS. The command encoding of `30_encoding.md`: opcodes and commands, the polling statements and `LOAD` as the host's turns
run them, and how many requests each command makes. -/

namespace Sys2Proof

open Sys2Proof.Machine

/-! ### Opcodes and commands -/

/-- An opcode decodes to its command (R91). -/
@[simp] theorem decodeByte_opcode (i : Instr) : decodeByte (opcode i) = .ok i := by cases i <;> rfl

/-- The opcodes, row by row (R91). -/
theorem ne_opcode_iff_rows (b : Byte) :
    (∀ i, b ≠ opcode i) ↔ b ≠ 0x01 ∧ b ≠ 0x02 ∧ b ≠ 0x10 ∧ b ≠ 0x11 ∧ b ≠ 0x12 ∧ b ≠ 0x13 ∧ b ≠ 0x20 ∧ b ≠ 0x21
      ∧ b ≠ 0x22 ∧ b ≠ 0x23 := by
  constructor
  · intro h
    exact ⟨h .subkeys, h .cmac, h .ah, h .c1, h .s1, h .g2, h .f4, h .f5, h .f6, h .h6⟩
  · rintro ⟨h1, h2, h3, h4, h5, h6, h7, h8, h9, h10⟩ i
    cases i <;> assumption

/-- A byte is a command's opcode, or is reserved and rejected under its own value (R91, R92). -/
theorem decodeByte_cases (b : Byte) :
    (∃ i, b = opcode i ∧ decodeByte b = .ok i)
      ∨ ((∀ i, b ≠ opcode i) ∧ decodeByte b = .error (.reservedOpcode b)) := by
  by_cases h : ∃ i, b = opcode i
  · obtain ⟨i, rfl⟩ := h
    exact .inl ⟨i, rfl, decodeByte_opcode i⟩
  · have hne : ∀ i, b ≠ opcode i := fun i hi => h ⟨i, hi⟩
    refine .inr ⟨hne, ?_⟩
    have hrows := (ne_opcode_iff_rows b).1 hne
    simp only [decodeByte, hrows, if_false]

/-- Only a command's opcode decodes to it (R91: the match is on all eight bits). -/
theorem eq_opcode_of_decodeByte {b : Byte} {i : Instr} (h : decodeByte b = .ok i) : b = opcode i := by
  rcases decodeByte_cases b with ⟨j, hb, hj⟩ | ⟨-, hr⟩
  · rw [hj] at h
    cases h
    exact hb
  · rw [hr] at h
    cases h

/-- A byte is rejected exactly if it is no command's opcode (R92). -/
theorem decodeByte_rejects_iff (b : Byte) :
    decodeByte b = .error (.reservedOpcode b) ↔ ∀ i, b ≠ opcode i := by
  constructor
  · rintro h i rfl
    rw [decodeByte_opcode] at h
    cases h
  · intro hne
    rcases decodeByte_cases b with ⟨i, hb, -⟩ | ⟨-, hr⟩
    · exact absurd hb (hne i)
    · exact hr

/-- The bytes that are no opcode are the ranges R92 lists. -/
theorem ne_opcode_iff_ranges (b : Byte) :
    (∀ i, b ≠ opcode i) ↔ b = 0x00 ∨ (0x03 ≤ b ∧ b ≤ 0x0F) ∨ (0x14 ≤ b ∧ b ≤ 0x1F) ∨ 0x24 ≤ b := by
  rw [ne_opcode_iff_rows]
  bv_omega

/-- Decoding reads the encoding of a command and leaves the bytes after it (R90). -/
@[simp] theorem decode_encode_append (i : Instr) (rest : List Byte) : decode (encode i ++ rest) = .ok (i, rest) := by
  simp [encode, decode]

namespace Machine

open Sys2Proof.Safety

/-! ### The host's turn on the polling statements -/

/-- Offset `0x0003` is `RESLEN` (`20_memory.md` R61). -/
theorem regRead_reslen (s : State) : s.regRead 0x0003 = s.reslen := by
  have h : regAt 0x0003 = .reslen := regAt_of_offset rfl
  rw [State.regRead, h]

/-- The bit `WAIT` tests is set in BUSY only (`10_state.md` R26). -/
theorem busyBit_statusByte (p : Phase) : busyBit (statusByte p) = true ↔ p = .busy := by cases p <;> decide

/-- `WAIT` (R97). -/
theorem hostTurn_wait {s : State} {rest : List HostStmt} (h : s.script = .wait :: rest) :
    hostTurn s = .next (hostRead 0x0001 { s with script := if s.phase = .busy then s.script else rest }) := by
  simp only [hostTurn, h, regRead_status, busyBit_statusByte]
  split
  · rw [← h]
  · rfl

/-- `READRES` (R97). -/
theorem hostTurn_readres {s : State} {rest : List HostStmt} (h : s.script = .readres :: rest) :
    hostTurn s = .next (hostRead 0x0003 { s with script := resultReads s.reslen ++ rest }) := by
  simp only [hostTurn, h, regRead_reslen]

/-! ### The writes of `LOAD` -/

/-- A write to `0x0008 + n` outside BUSY sets `SLEN[n]` (`40_command_lifecycle.md` R120). -/
theorem regWrite_slen {s : State} (hb : s.phase ≠ .busy) (n : Fin 8) (v : Byte) :
    s.regWrite (BitVec.ofNat 16 (0x0008 + n.val)) v = { s with slen := s.slen.set n v } := by
  rw [State.regWrite, if_neg hb, regAt_ofNat (r := .slen n) rfl]

/-- A write to `0x0100 + 32*n + j` outside BUSY sets byte `j` of slot `n` (`40_command_lifecycle.md` R120). -/
theorem regWrite_slot {s : State} (hb : s.phase ≠ .busy) (n : Fin 8) (j : Fin 32) (v : Byte) :
    s.regWrite (BitVec.ofNat 16 (0x0100 + 32 * n.val + j.val)) v
      = { s with slots := s.slots.set n (s.slots[n].set j v) } := by
  rw [State.regWrite, if_neg hb, regAt_ofNat (r := .slot n j) rfl]

/-- The operand slots after one byte of one slot is set. -/
theorem slots_set_getElem (slots : Vector (Bytes 32) 8) (n m : Fin 8) (i j : Fin 32) (v : Byte) :
    (slots.set n (slots[n].set i v))[m][j] = if m = n ∧ j = i then v else slots[m][j] := by
  by_cases hm : m = n
  · subst hm
    simp [Vector.getElem_set, Fin.ext_iff, eq_comm]
  · have hne : n.val ≠ m.val := fun h => hm (Fin.ext h.symm)
    simp [hm, Vector.getElem_set_ne _ _ hne]

/-- The writes of a field, the first one split off (R97: in index order). -/
theorem writesFrom_cons (base : Nat) (b : Byte) (data : List Byte) :
    writesFrom base (b :: data) = .wr (BitVec.ofNat 16 base) b :: writesFrom (base + 1) data := by
  simp [writesFrom, List.mapIdx_cons, Nat.add_comm, Nat.add_left_comm]

/-- Outside BUSY and with no turn appointed, a step is the host's write (log 7). -/
theorem step_wr {s : State} {off : Offset} {v : Byte} {rest : List HostStmt} (hb : s.phase ≠ .busy)
    (hs : s.schedule = []) (h : s.script = .wr off v :: rest) :
    step s = .next (State.regWrite { s with script := rest } off v) := by
  rw [step, nextTurn_unscheduled hs, turnTaken_unscheduled hs, defaultTurn, if_neg hb]
  exact hostTurn_wr h

/-- The writes of a field from index `k` on put its bytes into the slot from index `k` on, and nothing else. -/
theorem run_writesFrom (n : Fin 8) (rest : List HostStmt) (data : List Byte) (k : Nat) (s : State)
    (hb : s.phase ≠ .busy) (hs : s.schedule = []) (hlen : k + data.length ≤ 32)
    (hscript : s.script = writesFrom (0x0100 + 32 * n.val + k) data ++ rest) :
    ∃ slots : Vector (Bytes 32) 8,
      Host.Core.run Sys2Proof.core data.length s = .next { s with script := rest, slots := slots }
        ∧ ∀ (m : Fin 8) (j : Fin 32),
          slots[m][j] = if m = n ∧ k ≤ j.val ∧ j.val < k + data.length then data.getD (j.val - k) 0x00
            else s.slots[m][j] := by
  induction data generalizing k s with
  | nil =>
    have hrest : s.script = rest := hscript
    refine ⟨s.slots, by rw [← hrest]; rfl, fun m j => ?_⟩
    rw [if_neg fun ⟨_, hk, hj⟩ => absurd hj (Nat.not_lt.2 hk)]
  | cons b data ih =>
    rw [List.length_cons] at hlen
    rw [writesFrom_cons, List.cons_append] at hscript
    have hk : k < 32 := by omega
    have hstep := (step_wr hb hs hscript).trans
      (congrArg Host.Outcome.next (regWrite_slot (by exact hb) n ⟨k, hk⟩ b))
    obtain ⟨slots, hrun, hslots⟩ := ih (k + 1)
      { s with script := writesFrom (0x0100 + 32 * n.val + k + 1) data ++ rest,
               slots := s.slots.set n (s.slots[n].set k b) } hb hs (by omega) rfl
    refine ⟨slots, (run_succ hstep data.length).trans hrun, fun m j => ?_⟩
    rw [hslots, slots_set_getElem s.slots n m ⟨k, hk⟩ j b, List.length_cons]
    by_cases hm : m = n
    · simp only [hm, true_and, Fin.ext_iff]
      rcases Nat.lt_trichotomy j.val k with hlt | heq | hgt
      · rw [if_neg (by omega), if_neg (by omega), if_neg (by omega)]
      · rw [if_neg (by omega), if_pos heq, if_pos (by omega), heq, Nat.sub_self, List.getD_cons_zero]
      · have hd : j.val - k = j.val - (k + 1) + 1 := by omega
        rw [if_neg (Nat.ne_of_gt hgt), hd, List.getD_cons_succ]
        exact if_congr (by omega) rfl rfl
    · simp only [hm, false_and, if_false]

/-! ### How many requests a command makes -/

/-- The number of blocks of a message as the request table writes it (`70_reset_and_hazards.md` R289). -/
theorem blockCount_eq_max (len : Nat) : blockCount len = max 1 ((len + 15) / 16) := by
  unfold blockCount
  split <;> omega

/-- The chaining loop makes one request a block (`42_cmac.md` R172 step 3). -/
theorem chain_requests_length (E : Block → Block → Block) (key : Block) (blocks : List Block) (x : Block) :
    ((chain key blocks x).requests E).length = blocks.length := by
  induction blocks generalizing x with
  | nil => rfl
  | cons m rest ih => simp [chain, ih]

/-- `cmac` makes the subkey request and one request a block (`42_cmac.md` R172). -/
theorem cmac_requests_length (E : Block → Block → Block) (key : Block) (message : List Byte) :
    ((cmac key message).requests E).length = blockCount message.length + 1 := by
  have hpos : 1 ≤ blockCount message.length := by rw [blockCount_eq_max]; omega
  simp [cmac, deriveSubkeys, chain_requests_length, Nat.sub_add_cancel hpos]

/-- Every command makes the number of requests R289 gives it, whatever the cipher. -/
theorem bodyOf_requests_length (E : Block → Block → Block) (i : Instr) (s : State) :
    ((bodyOf i s).requests E).length = requestCount i s := by
  cases i with
  | cmac => simp [bodyOf, requestCount, progCmac, cmac_requests_length, blockCount_eq_max, State.message]
  | subkeys | ah | c1 | s1 => simp [bodyOf, requestCount, progSubkeys, deriveSubkeys, progAh, progC1, progS1]
  | g2 | f4 | f5 | f6 | h6 =>
    simp [bodyOf, requestCount, progG2, progF4, progF5, f5Message, progF6, progH6, cmac_requests_length, blockCount]

/-- With its lengths right and every request answered, a command delivers its value. -/
theorem exec_delivers {i : Instr} {s : State} (hl : lengthsRight i s)
    (hok : ∀ k < ((bodyOf i s).requests Config.blockCipher).length, s.reply k = .ok) :
    exec i s = .next
      (delivered s ((bodyOf i s).requests Config.blockCipher) ((bodyOf i s).value Config.blockCipher)) := by
  rw [exec_valid hl, settle_run, answeredOutcome, firstNotOk_eq_none.2 hok]

end Machine
end Sys2Proof

/-! ### The statements -/

open Sys2Proof Sys2Proof.Machine Sys2Proof.Safety

/-- Settles O34: the command's own requests are as many as R289 says, all of them are answered, and its value is as long as
R93 says. -/
theorem reliableCommandDelivers : Obligations.ReliableCommandDelivers := by
  intro i s hl hok
  have hcount := bodyOf_requests_length Config.blockCipher i s
  exact ⟨_, _, hcount, bodyOf_value_length Config.blockCipher i s, exec_delivers hl (hcount ▸ hok)⟩

/-- Settles O15: the write to `SLEN[n]`, then the field's bytes by induction on them. -/
theorem loadWritesTheField : Obligations.LoadWritesTheField := by
  intro s n data rest hb hs hlen hscript
  have hstep := (step_wr hb hs hscript).trans (congrArg Host.Outcome.next (regWrite_slen (by exact hb) n _))
  obtain ⟨slots, hrun, hslots⟩ := run_writesFrom n rest data 0
    { s with script := writesFrom (0x0100 + 32 * n.val) data ++ rest,
             slen := s.slen.set n (BitVec.ofNat 8 data.length) } hb hs (by omega) rfl
  refine ⟨slots, (run_succ hstep data.length).trans hrun, fun m j => ?_⟩
  simpa using hslots m j

/-- Settles O1: the words of R91's binary column are the encodings of the ten commands. -/
theorem commandWordsDecode : Obligations.CommandWordsDecode :=
  have h (i : Instr) : decode [opcode i] = .ok (i, []) := decode_encode_append i []
  ⟨h .subkeys, h .cmac, h .ah, h .c1, h .s1, h .g2, h .f4, h .f5, h .f6, h .h6⟩

/-- Settles O2: an opcode decodes to its command, and nothing else decodes to it. -/
theorem decodeEncodeAgree : Obligations.DecodeEncodeAgree :=
  ⟨decode_encode_append, fun _ _ h => by rw [eq_opcode_of_decodeByte h, encode]⟩

/-- Settles O3: the rejected bytes are those that are no opcode, and these are R92's ranges; the count is by evaluation. -/
theorem reservedBytesRejected : Obligations.ReservedBytesRejected :=
  ⟨fun b => (decodeByte_rejects_iff b).trans (ne_opcode_iff_ranges b), by decide +kernel⟩

/-- Settles O14: each polling statement is one read, the script moved on as R97 says. -/
theorem pollingStatements : Obligations.PollingStatements := by
  intro s rest
  constructor
  · intro h
    rw [hostTurn_wait h, hostRead, regRead_status]
  · intro h
    rw [hostTurn_readres h, hostRead, regRead_reslen]
    rfl
end

section
/-! PROOFS. The life of a command (`40_command_lifecycle.md`): the two host transactions case by case, what a command's outcome
depends on, what a step from BUSY can do, and that an answered command completes. -/

namespace Sys2Proof.Machine

open Sys2Proof.Safety

/-! ### Offsets given by their number -/

/-- An offset is the one of its number. -/
theorem eq_ofNat_of_toNat {off : Offset} {a : Nat} (h : off.toNat = a) : off = BitVec.ofNat 16 a := by
  rw [← h, BitVec.ofNat_toNat, BitVec.setWidth_eq]

/-- Offset `0x0002` is `ERRCODE` (`20_memory.md` R61). -/
theorem regRead_errcode (s : State) : s.regRead 0x0002 = s.errcode := by
  have h : regAt 0x0002 = .errcode := regAt_of_offset rfl
  rw [State.regRead, h]

/-- Offset `0x0000` is `CMD`, which reads `0x00` (R121). -/
theorem regRead_cmd (s : State) : s.regRead 0x0000 = 0x00 := by
  have h : regAt 0x0000 = .cmd := regAt_of_offset rfl
  rw [State.regRead, h]

/-- `SLEN[n]` is read at `0x0008 + n` (`20_memory.md` R61). -/
theorem regRead_slen (s : State) (n : Fin 8) : s.regRead (BitVec.ofNat 16 (0x0008 + n.val)) = s.slen[n] := by
  rw [State.regRead, regAt_ofNat (r := .slen n) rfl]

/-- A write to `0x0000` outside BUSY is an acceptance (R120, R122). -/
theorem regWrite_zero {s : State} (hb : s.phase ≠ .busy) (v : Byte) : s.regWrite 0x0000 v = accept v s :=
  regWrite_cmd hb (regAt_of_offset rfl) v

/-- A write to `0x1000 + j` outside BUSY sets byte `j` of the message buffer (R120). -/
theorem regWrite_msgByte {s : State} (hb : s.phase ≠ .busy) {j : Nat} (hj : j < Config.msgMax) (v : Byte) :
    s.regWrite (BitVec.ofNat 16 (0x1000 + j)) v = { s with msg := s.msg.write j v } := by
  rw [State.regWrite, if_neg hb, regAt_ofNat (r := .msg j) (if_pos hj)]

/-- A write to `STATUS`, `ERRCODE`, `RESLEN`, the result window or a reserved offset is ignored in every phase (R120). -/
theorem regWrite_readOnly {off : Offset}
    (h : (0x0001 ≤ off.toNat ∧ off.toNat ≤ 0x0003) ∨ (0x0006 ≤ off.toNat ∧ off.toNat ≤ 0x0007)
      ∨ (0x0010 ≤ off.toNat ∧ off.toNat ≤ 0x00FF) ∨ (0x0200 ≤ off.toNat ∧ off.toNat ≤ 0x0FFF)
      ∨ 0x1000 + Config.msgMax ≤ off.toNat) (s : State) (v : Byte) : s.regWrite off v = s := by
  rcases regAt_offset off with hr | hr
  · exact regWrite_reserved hr s v
  unfold State.regWrite
  cases hreg : regAt off with
  | cmd | msgLenHi | msgLenLo | slen | slot =>
    rw [hreg] at hr
    have hoff := Option.some.inj hr
    omega
  | msg j =>
    simp only [hreg, Reg.offset, Option.ite_none_right_eq_some, Option.some.injEq] at hr
    omega
  | _ => exact ite_self s

/-! ### A command depends on the operands it reads -/

/-- Every bit of an operand is read, the two flag bytes of `C1` aside (`30_encoding.md` R93, R94). -/
theorem readMask_operand (i : Instr) :
    ∀ p ∈ contract i, ¬ (i = .c1 ∧ (p.1 = 4 ∨ p.1 = 6)) → ∀ j < p.2, readMask i p.1 j = BitVec.allOnes 8 := by
  cases i <;> decide

/-- Bit 0 of a flag operand is all that counts (`30_encoding.md` R94). -/
theorem flagByte_congr {a b : Byte} (h : a &&& 0x01 = b &&& 0x01) : flagByte a = flagByte b := by
  have hbit := congrArg (fun x : Byte => x.getLsbD 0) h
  unfold flagByte
  simpa using congrArg zext8 hbit

section Operands

variable {i : Instr} {s s' : State} (h : sameOperands i s s')

include h

/-- The lengths a command validates are the same. -/
theorem lengthsOk_congr : lengthsOk (contract i) s = lengthsOk (contract i) s' := by
  obtain ⟨hslen, -, -⟩ := h
  rw [Bool.eq_iff_iff]
  simp only [lengthsOk, List.all_eq_true]
  exact forall₂_congr fun p hp => by rw [hslen p hp]

/-- The validation comes out the same (R123 step 2). -/
theorem lengthsRight_congr : lengthsRight i s ↔ lengthsRight i s' := by
  have hl := lengthsOk_congr h
  rw [← validOf_iff, ← validOf_iff]
  cases i with
  | cmac =>
    obtain ⟨-, -, hmsg⟩ := h
    obtain ⟨hlen, -⟩ := hmsg rfl
    simp only [validOf, hl, hlen]
  | _ => simp only [validOf, hl]

/-- An operand read with all its bits is the same. -/
theorem opnd_congr {n : Fin 8} {len : Nat} (hlen : len ≤ 32)
    (hp : (n, len) ∈ contract i ∧ ¬ (i = .c1 ∧ (n = 4 ∨ n = 6))) : s.opnd n len hlen = s'.opnd n len hlen := by
  obtain ⟨-, hslots, -⟩ := h
  refine Vector.ext fun j hj => ?_
  have hb := hslots n ⟨j, by omega⟩
  rw [readMask_operand i _ hp.1 hp.2 j hj, BitVec.and_allOnes, BitVec.and_allOnes] at hb
  simpa [State.opnd] using hb

/-- The message of `CMAC` is the same. -/
theorem message_congr (hi : i = .cmac) : s.message = s'.message := by
  obtain ⟨-, -, hmsg⟩ := h
  obtain ⟨hlen, hread⟩ := hmsg hi
  unfold State.message
  rw [← hlen]
  exact List.map_congr_left fun j hj => hread j (List.mem_range.1 hj)

/-- The two flags of `C1` enter `p1` the same. -/
theorem flag_congr (hi : i = .c1) {n : Fin 8} (hn : n = 4 ∨ n = 6) :
    flagByte (s.opnd n 1 (by omega))[0] = flagByte (s'.opnd n 1 (by omega))[0] := by
  obtain ⟨-, hslots, -⟩ := h
  have hmask : readMask i n 0 = 0x01 := by
    subst hi
    rcases hn with rfl | rfl <;> decide
  have hb := hslots n 0
  rw [Fin.val_zero, hmask] at hb
  simpa [State.opnd] using flagByte_congr hb

/-- The pseudocode is the same: it sees nothing of the state but the operands (R132). -/
theorem bodyOf_congr : bodyOf i s = bodyOf i s' := by
  cases i with
  | cmac =>
    simp (disch := decide) only [bodyOf, progCmac, opnd_congr h, message_congr h rfl]
  | c1 =>
    simp (disch := decide) only [bodyOf, progC1, opnd_congr h, flag_congr h rfl]
  | _ =>
    simp (disch := decide) only [bodyOf, progSubkeys, progAh, progS1, progG2, progF4, progF5, progF6, progH6,
      opnd_congr h]

end Operands

/-- A command rejected before its first request has the outcome of its error, whatever the state (R123, R127). -/
theorem rejectCommand_sameOutcome (e : CmdError) (s s' : State) :
    sameOutcome (rejectCommand e s) (rejectCommand e s') := ⟨rfl, rfl, rfl, rfl⟩

/-- What one run comes to, in two states that show the same outcome: the same outcome and the same requests. -/
theorem settle_congr {s s' : State} (run : List Request × Progress (List Byte)) (h : sameOutcome s s') :
    sameOutcome (settle run s) (settle run s') ∧ (settle run s).requests = (settle run s').requests := by
  unfold settle
  cases run.2 with
  | done out => exact ⟨⟨rfl, rfl, rfl, rfl⟩, rfl⟩
  | failed => exact ⟨⟨rfl, rfl, rfl, rfl⟩, rfl⟩
  | waiting => exact ⟨h, rfl⟩

/-! ### What a command and a step from BUSY lead to -/

/-- A command whose first request not answered `ok` has no answer waits for it (R133). -/
theorem exec_waits {i : Instr} {s : State} {k : Nat} (hl : lengthsRight i s) (hk : k < requestCount i s)
    (hok : ∀ j < k, s.reply j = .ok) (hsilent : s.reply k = .silent) :
    exec i s = .next (waiting s (((bodyOf i s).requests Config.blockCipher).take (k + 1))) := by
  have hfirst : firstNotOk s.reply ((bodyOf i s).requests Config.blockCipher).length = some k := by
    rw [bodyOf_requests_length]
    exact firstNotOk_eq_some.2 ⟨hk, by simp [hsilent], hok⟩
  rw [exec_valid hl, settle_run, answeredOutcome, hfirst]
  simp only [hsilent, if_true]

/-- With nothing loaded every command ends in `LengthError` (`60_exceptions.md` R251). -/
theorem exec_unloaded (i : Instr) {s : State} (h : s.slen[0] = 0x00) : exec i s = .next (failed s [] 0x01) := by
  have hl : ¬ lengthsRight i s := by cases i <;> simp [lengthsRight, h]
  rw [exec_invalid hl, rejectCommand, completeErr_eq_failed]
  rfl

/-- The engine's turn, in BUSY with a command latched. -/
theorem engineTurn_command {s : State} {i : Instr} (hb : s.phase = .busy) (hd : decodeByte s.op = .ok i) :
    engineTurn s = exec i s := by
  rw [engineTurn, if_pos hb, hd]

/-- A step on the engine's turn. -/
theorem step_engine {s : State} (hn : nextTurn s = .engine) : step s = engineTurn (turnTaken s) := by
  rw [step, hn, takeTurn]

/-- In BUSY, with no turn appointed, a step is the engine's (log 7). -/
theorem step_busy_unscheduled {s : State} (hb : s.phase = .busy) (hs : s.schedule = []) : step s = engineTurn s := by
  have hn : nextTurn s = .engine := by rw [nextTurn_unscheduled hs, defaultTurn, if_pos hb]
  rw [step_engine hn, turnTaken_unscheduled hs]

/-- A command word placed is the acceptance of its opcode (log 8). -/
theorem withFetchWord_opcode (i : Instr) (s : State) :
    s.withFetchWord 8 (opcode i).toNat = acceptNext (opcode i) s := by cases i <;> rfl

/-- After an acceptance by `acceptNext` the next turn is the engine's: appointed first, or by default in BUSY (log 8). -/
theorem nextTurn_acceptNext (b : Byte) (s : State) : nextTurn (acceptNext b s) = .engine := by
  unfold nextTurn acceptNext
  cases s.schedule with
  | nil => rfl
  | cons turn turns => rfl

/-- With that turn taken, the turns appointed before are the ones to come. -/
theorem turnTaken_acceptNext (b : Byte) (s : State) :
    turnTaken (acceptNext b s) = { accept b s with schedule := s.schedule } := by
  unfold turnTaken acceptNext
  cases s.schedule with
  | nil => rfl
  | cons turn turns => rfl

/-- While BUSY the host's turn changes no register and not the latched opcode (R120, R129). -/
theorem hostTurn_busy_frame {s t : State} (hb : s.phase = .busy) (h : hostTurn s = .next t) :
    sameRegisters t s ∧ t.op = s.op := by
  rcases hostTurn_cases h with rfl | ⟨off, v, rest, -, rfl⟩ | ⟨off, script, rfl⟩
  · exact ⟨fun _ => rfl, rfl⟩
  · rw [regWrite_busy (s := { s with script := rest }) hb]
    exact ⟨fun _ => rfl, rfl⟩
  · exact ⟨hostRead_sameRegisters off script s, rfl⟩

/-- Everything a step from BUSY can do: it stays in BUSY and shows the host nothing, the engine completes the command, or a
reset abandons it. -/
theorem step_busy_cases {s t : State} (hb : s.phase = .busy) (h : step s = .next t) :
    (t.phase = .busy ∧ sameRegisters t s ∧ t.op = s.op)
      ∨ (nextTurn s = .engine ∧ ∃ reqs out, t = delivered (turnTaken s) reqs out)
      ∨ (nextTurn s = .engine ∧ ∃ reqs, ∃ code ∈ ([0x01, 0x02, 0x03] : List Byte), t = failed (turnTaken s) reqs code)
      ∨ (nextTurn s = .reset ∧ t = resetEvent (turnTaken s)) := by
  rcases step_cases h with ⟨-, hh⟩ | ⟨hn, he⟩ | ⟨hn, rfl⟩ | ⟨-, rfl⟩
  · exact .inl ⟨hostTurn_keeps_busy (s := turnTaken s) hb hh, hostTurn_busy_frame (s := turnTaken s) hb hh⟩
  · rcases engineTurn_busy_shape (s := turnTaken s) hb he with ⟨reqs, out, -, rfl⟩ | hfailed | ⟨reqs, rfl⟩
    · exact .inr (.inl ⟨hn, reqs, out, rfl⟩)
    · exact .inr (.inr (.inl ⟨hn, hfailed⟩))
    · exact .inl ⟨hb, fun _ => rfl, rfl⟩
  · exact .inr (.inr (.inr ⟨hn, rfl⟩))
  · exact .inl ⟨hb, fun _ => rfl, rfl⟩

/-- The operand storage of reset is all zero (R128; `10_state.md` R36). -/
theorem operandsZero_of_reset_storage {t : State}
    (h : t.slots = State.reset.slots ∧ t.slen = State.reset.slen ∧ t.msg = State.reset.msg
      ∧ t.msgLen = State.reset.msgLen) : operandsZero t := by
  obtain ⟨hslots, hslen, hmsg, hlen⟩ := h
  obtain ⟨-, hzero, -⟩ := resetState
  unfold operandsZero at hzero ⊢
  rwa [hslots, hslen, hmsg, hlen]

/-! ### An answered command completes -/

/-- A request beyond those answered whose answer is still to come is met by that answer. -/
theorem reply_add_answered {s : State} {j : Nat} (hj : j < s.replies.length) :
    s.reply (s.answered + j) = s.replies[j] := by
  rw [State.reply, if_neg (by omega), Nat.add_sub_cancel_left, List.getD_eq_getElem _ _ hj]

/-- A request without an answer is not among those answered. -/
theorem answered_le_of_silent {s : State} {k : Nat} (h : s.reply k = .silent) : s.answered ≤ k := by
  by_contra hk
  rw [State.reply, if_pos (by omega)] at h
  cases h

/-- A request without an answer, within reach of the coming replies, meets one of them that is no answer. -/
theorem silent_mem_replies {s : State} {k : Nat} (h : s.reply k = .silent)
    (hk : k < s.answered + s.replies.length) : .silent ∈ s.replies := by
  obtain ⟨j, rfl⟩ := Nat.exists_eq_add_of_le (answered_le_of_silent h)
  have hj : j < s.replies.length := by omega
  rw [reply_add_answered hj] at h
  exact h ▸ List.getElem_mem hj

/-- If the next reply is no answer, the first request without one is the next request. -/
theorem eq_answered_of_silent_next {s : State} {k : Nat} {rest : List Reply} (hr : s.replies = .silent :: rest)
    (hok : ∀ j < k, s.reply j = .ok) (h : s.reply k = .silent) : k = s.answered := by
  have hnext : s.reply s.answered = .silent := by
    have hreply := reply_add_answered (s := s) (j := 0) (by simp [hr])
    simpa only [hr, List.getElem_cons_zero, Nat.add_zero] using hreply
  refine Nat.le_antisymm (Nat.le_of_not_lt fun hlt => ?_) (answered_le_of_silent h)
  rw [hok _ hlt] at hnext
  cases hnext

/-- In BUSY, with no turn appointed, a step completes the command, or its first request not answered `ok` has no answer and it
waits for that one. -/
theorem step_completes_or_waits {s : State} (hb : s.phase = .busy) (hs : s.schedule = []) :
    ∃ t, step s = .next t
      ∧ ((t.phase = .done ∨ t.phase = .error)
        ∨ ∃ i k reqs, decodeByte s.op = .ok i ∧ k < requestCount i s ∧ (∀ j < k, s.reply j = .ok) ∧ s.reply k = .silent
            ∧ reqs.length = k + 1 ∧ t = waiting s reqs) := by
  obtain ⟨t, ht⟩ := engineTurn_next s
  refine ⟨t, (step_busy_unscheduled hb hs).trans ht, ?_⟩
  rcases engineTurn_cases ht with ⟨hidle, -⟩ | ⟨-, i, hd, he⟩ | ⟨-, -, rfl⟩
  · exact absurd hb hidle
  · rcases exec_cases he with ⟨-, rfl⟩ | ⟨-, -, rfl⟩ | ⟨-, k, -, -, -, rfl⟩ | ⟨-, k, hk, hok, hsilent, rfl⟩
    · exact .inl (.inr rfl)
    · exact .inl (.inl rfl)
    · exact .inl (.inr rfl)
    · refine .inr ⟨i, k, _, hd, bodyOf_requests_length _ i s ▸ hk, hok, hsilent, ?_, rfl⟩
      exact List.length_take_of_le hk
  · exact .inl (.inr rfl)

/-- How many requests a command makes depends on `MSG_LEN` only (`70_reset_and_hazards.md` R289). -/
theorem requestCount_waiting (i : Instr) (s : State) (reqs : List Request) :
    requestCount i (waiting s reqs) = requestCount i s := by cases i <;> rfl

end Sys2Proof.Machine

/-! ### The statements -/

open Sys2Proof Sys2Proof.Machine Sys2Proof.Safety

/-- Settles O4: BUSY ignores the write; else each offset is that of its register, whose write is known. -/
theorem regWriteByCase : Obligations.RegWriteByCase := by
  intro s off v hm
  refine ⟨fun hb => regWrite_busy hb off v, fun hb => ⟨?_, ?_, ?_, ?_, ?_, ?_, fun h => regWrite_readOnly h s v⟩⟩
  · rintro rfl
    exact regWrite_zero hb v
  · rintro rfl
    exact ⟨_, regWrite_msgLenHi hb v, msgLenHi_append v _, msgLenLo_append v _⟩
  · rintro rfl
    exact ⟨_, regWrite_msgLenLo hb v, msgLenLo_append _ v, msgLenHi_append _ v⟩
  · intro n hoff
    rw [eq_ofNat_of_toNat hoff]
    exact regWrite_slen hb n v
  · intro n j hoff
    rw [eq_ofNat_of_toNat hoff]
    exact regWrite_slot hb n j v
  · intro j hj hoff
    rw [eq_ofNat_of_toNat hoff]
    exact ⟨_, regWrite_msgByte hb hj v, Memory.read_write_same hm j v, fun k hk => Memory.read_write_other s.msg v hk⟩

/-- Settles O5: each offset is that of its register, `CMD` and the reserved offsets read `0x00`, and the host's read is its
record of the byte. -/
theorem regReadByCase : Obligations.RegReadByCase := by
  intro s off
  refine ⟨?_, ?_, ?_, ?_, ?_, ?_, ?_, ?_, ?_, ?_, fun rest => ?_⟩
  · rintro rfl; exact regRead_status s
  · rintro rfl; exact regRead_errcode s
  · rintro rfl; exact regRead_reslen s
  · rintro rfl; exact regRead_msgLenHi s
  · rintro rfl; exact regRead_msgLenLo s
  · intro n hoff; rw [eq_ofNat_of_toNat hoff]; exact regRead_slen s n
  · intro j hoff; rw [eq_ofNat_of_toNat hoff]; exact regRead_result s j
  · intro n j hoff; rw [eq_ofNat_of_toNat hoff]; exact regRead_slot s n j
  · intro j hj hoff; rw [eq_ofNat_of_toNat hoff]; exact regRead_msg s hj
  · rintro (hoff | hoff)
    · rw [eq_ofNat_of_toNat hoff]; exact regRead_cmd s
    · exact regRead_reserved (regAt_reserved hoff) s
  · rw [hostTurn_rd rfl]
    rfl

/-- Settles O37: the command waits for that request, and waiting touches the port only. -/
theorem silenceLeavesCommandBusy : Obligations.SilenceLeavesCommandBusy := by
  intro i s k hl hk hok hsilent
  have hlen : (((bodyOf i s).requests Config.blockCipher).take (k + 1)).length = k + 1 :=
    List.length_take_of_le (by rw [bodyOf_requests_length]; exact hk)
  refine ⟨_, exec_waits hl hk hok hsilent, rfl, fun _ => rfl, ?_, hlen⟩
  exact Nat.sub_eq_of_eq_add hlen

/-- Settles O40: validation and pseudocode are the same, so both commands end in `LengthError` or deliver one value. -/
theorem reliableOutcomeDetermined : Obligations.ReliableOutcomeDetermined := by
  intro i s s' t t' hop hok h h'
  have hbody := bodyOf_congr hop
  by_cases hl : lengthsRight i s
  · have hl' := (lengthsRight_congr hop).1 hl
    rw [← bodyOf_requests_length Config.blockCipher] at hok
    have hok' : ∀ k < ((bodyOf i s').requests Config.blockCipher).length, s'.reply k = .ok := by
      rw [← hbody]
      exact fun k hk => (hok k hk).2
    rw [exec_delivers hl fun k hk => (hok k hk).1] at h
    rw [exec_delivers hl' hok', ← hbody] at h'
    cases h
    cases h'
    exact ⟨rfl, rfl, rfl, rfl⟩
  · rw [exec_invalid hl] at h
    rw [exec_invalid (mt (lengthsRight_congr hop).2 hl)] at h'
    cases h
    cases h'
    exact rejectCommand_sameOutcome _ s s'

/-- Settles O41: validation, pseudocode and replies are the same, so the run is; what it comes to names the outcome, and a
command that waits has the outcome it had. -/
theorem outcomeFromOperandsAndReplies : Obligations.OutcomeFromOperandsAndReplies := by
  intro i s s' t t' hop hsame hreply h h'
  by_cases hl : lengthsRight i s
  · have hl' := (lengthsRight_congr hop).1 hl
    have hrun : (bodyOf i s).run Config.blockCipher s.reply 0 = (bodyOf i s').run Config.blockCipher s'.reply 0 := by
      rw [bodyOf_congr hop, funext hreply]
    rw [exec_valid hl] at h
    rw [exec_valid hl', ← hrun] at h'
    cases h
    cases h'
    exact settle_congr _ hsame
  · rw [exec_invalid hl] at h
    rw [exec_invalid (mt (lengthsRight_congr hop).2 hl)] at h'
    cases h
    cases h'
    exact ⟨rejectCommand_sameOutcome _ s s', rfl⟩

/-- Settles O45: of what a step from BUSY can do, only a failed completion ends in ERROR. -/
theorem failedCommandOffersNothing : Obligations.FailedCommandOffersNothing := by
  intro s t hb h ht
  have hzero : operandsZero t := operandsZero_of_reset_storage (step_out_of_busy_operands hb h (by simp [ht]))
  rcases step_busy_cases hb h with ⟨hb', -⟩ | ⟨-, reqs, out, rfl⟩ | ⟨-, reqs, code, hcode, rfl⟩ | ⟨-, rfl⟩
  · rw [ht] at hb'; cases hb'
  · cases ht
  · exact ⟨rfl, fun j => by simp [failed, ended], hcode, hzero⟩
  · cases ht

/-- Settles O46: a step out of BUSY leaves the operand storage of reset, with which no command passes validation. -/
theorem operandsDoNotSurvive : Obligations.OperandsDoNotSurvive := by
  intro s t hb h ht
  have hzero := operandsZero_of_reset_storage (step_out_of_busy_operands hb h ht)
  exact ⟨hzero, fun i => ⟨_, exec_unloaded i (hzero.2.1 0), rfl, rfl⟩⟩

/-- Settles O47: every other thing a step from BUSY can do ends BUSY. -/
theorem nothingChangesWhileBusy : Obligations.NothingChangesWhileBusy := by
  intro s t hb h ht
  rcases step_busy_cases hb h with ⟨-, hsame⟩ | ⟨-, reqs, out, rfl⟩ | ⟨-, reqs, code, -, rfl⟩ | ⟨-, rfl⟩
  · exact hsame
  · cases ht
  · cases ht
  · cases ht

/-- Settles O48: what a step from BUSY can do, read for the phase. -/
theorem onlyCompletionOrResetEndsBusy : Obligations.OnlyCompletionOrResetEndsBusy := by
  intro s t hb h ht
  rcases step_busy_cases hb h with ⟨hb', -⟩ | ⟨hn, reqs, out, rfl⟩ | ⟨hn, reqs, code, -, rfl⟩ | ⟨hn, rfl⟩
  · exact absurd hb' ht
  · exact .inl ⟨hn, .inl rfl⟩
  · exact .inl ⟨hn, .inr rfl⟩
  · exact .inr ⟨hn, rfl⟩

/-- Settles O52: the host's write is the acceptance, and BUSY with an opcode latched is the engine's turn. -/
theorem commandLifeInTwoSteps : Obligations.CommandLifeInTwoSteps := by
  intro s i rest hb hs hscript
  constructor
  · rw [step_wr hb hs hscript, regWrite_zero (by exact hb)]
  · rw [step_busy_unscheduled (s := accept (opcode i) { s with script := rest }) rfl hs,
      engineTurn_command rfl (decodeByte_opcode i)]

/-- Settles O53, by induction on the turns without an answer: each leaves the command waiting for the same request, and with an
answer to every request it completes. -/
theorem answeredCommandCompletes : Obligations.AnsweredCommandCompletes := by
  intro m answers s hb hs hreplies hanswers hcount
  induction m generalizing s with
  | zero =>
    obtain ⟨t, hstep, hend | ⟨i, k, reqs, hd, hk, -, hsilent, -, -⟩⟩ := step_completes_or_waits hb hs
    · exact ⟨1, Nat.le_refl 1, t, run_succ hstep 0, hend⟩
    · have hr : s.replies = answers := hreplies
      exact absurd rfl (hanswers _ (hr ▸ silent_mem_replies hsilent (hk.trans_le (hr ▸ hcount i hd))))
  | succ m ih =>
    obtain ⟨t, hstep, hend | ⟨i, k, reqs, hd, hk, hok, hsilent, hreqs, rfl⟩⟩ := step_completes_or_waits hb hs
    · exact ⟨1, Nat.le_add_left 1 _, t, run_succ hstep 0, hend⟩
    · have hr : s.replies = .silent :: (List.replicate m .silent ++ answers) := hreplies
      obtain rfl := eq_answered_of_silent_next hr hok hsilent
      have hanswered : (waiting s reqs).answered = s.answered := Nat.sub_eq_of_eq_add hreqs
      have hrest : (waiting s reqs).replies = List.replicate m .silent ++ answers := by
        simp only [waiting, hreqs, hr, Nat.add_sub_cancel_left, List.drop_succ_cons, List.drop_zero]
      obtain ⟨n, hn, t, hrun, hend⟩ := ih (waiting s reqs) hb hs hrest fun i hi => by
        rw [requestCount_waiting, hanswered]
        exact hcount i hi
      exact ⟨n + 1, Nat.succ_le_succ hn, t, (run_succ hstep n).trans hrun, hend⟩

/-- Settles O11: at `CMD` outside BUSY the write is the acceptance of R122. -/
theorem cmdWriteAccepts : Obligations.CmdWriteAccepts := by
  intro s v hb
  rw [regWrite_zero hb]
  exact ⟨rfl, rfl, rfl, rfl, fun j => by simp, rfl, rfl, rfl, rfl, rfl, rfl, rfl, rfl, rfl⟩

/-- Settles O42: the engine's turn runs the latched command; a word placed is accepted, and with turns appointed the engine's
comes first and the others stay. -/
theorem stepRunsLatchedCommand : Obligations.StepRunsLatchedCommand := by
  constructor
  · intro s i hb hn hd
    exact (step_engine hn).trans (engineTurn_command (s := turnTaken s) hb hd)
  · intro s i
    rw [withFetchWord_opcode, step_engine (nextTurn_acceptNext _ s), turnTaken_acceptNext,
      engineTurn_command rfl (decodeByte_opcode i)]
end

section
/-! PROOFS. ByteOps (`41_byteops.md`): the bytes each datapath primitive makes, and what it does to the integer a byte string
denotes. -/

namespace Sys2Proof.Machine

open Sys2Proof.Safety

/-! ### The integer of a byte string (`00_scope.md` R11) -/

/-- A byte string that has the bytes of `a`, then those of `b`, denotes `a` above `b`. -/
theorem integer_concat {n m k : Nat} {a : Bytes n} {b : Bytes m} {ab : Bytes k} (hk : k = n + m)
    (ha : ∀ i : Fin n, ab[i.val]? = some a[i]) (hb : ∀ i : Fin m, ab[n + i.val]? = some b[i]) :
    integer ab = integer a * 256 ^ m + integer b := by
  subst hk
  have hleft (i : Fin n) : ab[Fin.castAdd m i] = a[i] :=
    Option.some.inj ((Vector.getElem?_eq_getElem (Fin.castAdd m i).isLt).symm.trans (ha i))
  have hright (i : Fin m) : ab[Fin.natAdd n i] = b[i] :=
    Option.some.inj ((Vector.getElem?_eq_getElem (Fin.natAdd n i).isLt).symm.trans (hb i))
  have hpow (i : Fin n) : 256 ^ (n + m - 1 - i.val) = 256 ^ (n - 1 - i.val) * 256 ^ m := by
    rw [← pow_add]
    congr 1
    omega
  have hexp (i : Fin m) : n + m - 1 - (n + i.val) = m - 1 - i.val := by omega
  simp only [integer, Fin.sum_univ_add, hleft, hright, Fin.val_castAdd, Fin.val_natAdd, hpow, hexp, Finset.sum_mul,
    mul_assoc]

/-- Horner's form: the last byte is the least significant. -/
theorem integer_succ {n : Nat} (b : Bytes (n + 1)) : integer b = integer b.pop * 256 + b.back.toNat := by
  have h : integer #v[b.back] = b.back.toNat := by simp [integer]
  rw [← h]
  refine integer_concat (a := b.pop) rfl (fun i => ?_) (fun i => ?_)
  · simp
  · simp [Vector.back]

theorem integer_lt {n : Nat} (b : Bytes n) : integer b < 256 ^ n := by
  induction n with
  | zero => simp [integer]
  | succ n ih =>
    have hhigh : integer b.pop < 256 ^ n := ih b.pop
    have hlow : b.back.toNat < 256 := b.back.isLt
    rw [integer_succ, pow_succ]
    omega

/-- XOR acts on a number's last byte and on what stands above it apart. -/
theorem xor_mul_256_add (h h' : Nat) (x y : Byte) :
    (h * 256 + x.toNat) ^^^ (h' * 256 + y.toNat) = (h ^^^ h') * 256 + (x ^^^ y).toNat := by
  have hhigh (k : Nat) (z : Byte) : (k * 256 + z.toNat) / 2 ^ 8 = k := by omega
  have hlow (k : Nat) (z : Byte) : (k * 256 + z.toNat) % 2 ^ 8 = z.toNat := by omega
  rw [BitVec.toNat_xor, ← Nat.div_add_mod' ((h * 256 + x.toNat) ^^^ (h' * 256 + y.toNat)) (2 ^ 8),
    Nat.xor_div_two_pow, Nat.xor_mod_two_pow, hhigh, hhigh, hlow, hlow]
  rfl

/-- Byte-wise XOR of byte strings is XOR of the integers. -/
theorem integer_xor {n : Nat} {a b x : Bytes n} (h : ∀ (i : Nat) (hi : i < n), x[i] = a[i] ^^^ b[i]) :
    integer x = integer a ^^^ integer b := by
  induction n with
  | zero => simp [integer]
  | succ n ih =>
    have hpop : integer x.pop = integer a.pop ^^^ integer b.pop := ih fun i hi => by simpa using h i (by omega)
    have hback : x.back = a.back ^^^ b.back := h n (by omega)
    rw [integer_succ a, integer_succ b, integer_succ x, hpop, hback, xor_mul_256_add]

/-- A carry chain doubles: if every byte of `s` is the doubled byte of `b` with the carry of the next less significant one, up
to its own carry, then so it is for the integers. -/
theorem integer_carry_chain {n : Nat} {b s : Bytes n} {carry : Nat → Nat}
    (h : ∀ (i : Nat) (hi : i < n), s[i].toNat + 256 * carry i = 2 * b[i].toNat + carry (i + 1)) :
    integer s + 256 ^ n * carry 0 = 2 * integer b + carry n := by
  induction n with
  | zero => simp [integer]
  | succ n ih =>
    have hpop : integer s.pop + 256 ^ n * carry 0 = 2 * integer b.pop + carry n :=
      ih fun i hi => by simpa using h i (by omega)
    have hback : s.back.toNat + 256 * carry n = 2 * b.back.toNat + carry (n + 1) := h n (by omega)
    rw [integer_succ s, integer_succ b, pow_succ]
    linarith

/-! ### Concatenation and its fields (R153) -/

/-- A field stands, in index order, after all that is to its left. -/
theorem getElem?_field {m left : List Byte} {n off : Nat} {field : Bytes n} (h : left ++ field.toList <+: m)
    (hoff : left.length = off) (i : Fin n) : m[off + i.val]? = some field[i] := by
  obtain ⟨right, rfl⟩ := h
  subst hoff
  simp [List.getElem?_append]

/-- `toBlock` keeps every byte at its index. -/
theorem toBlock_getElem? (bytes : List Byte) (h : bytes.length = 16) (i : Nat) :
    (toBlock bytes h)[i]? = bytes[i]? := by
  by_cases hi : i < 16
  · simp [toBlock, hi, h]
  · simp [h, Nat.le_of_not_lt hi]

/-! ### `xor16` (R150) and `shiftLeftOneBit` (R151) -/

@[simp] theorem xor16_getElem (a b : Block) (i : Nat) (h : i < 16) : (xor16 a b)[i] = a[i] ^^^ b[i] := by
  simp [xor16]

theorem shiftLeftOneBit_getElem (b : Block) {i : Nat} (h : i < 15) :
    (shiftLeftOneBit b)[i] = b[i] <<< 1 ||| b[i + 1] >>> 7 := by
  simp [shiftLeftOneBit, h]

theorem shiftLeftOneBit_getElem_last (b : Block) : (shiftLeftOneBit b)[15] = b[15] <<< 1 := by
  simp [shiftLeftOneBit]

/-- The carry out of the byte at an index: its top bit; past byte 15 there is none. -/
def carryOut (b : Block) (i : Nat) : Nat := (b[i]?.getD 0).toNat / 128

theorem carryOut_of_lt (b : Block) {i : Nat} (h : i < 16) : carryOut b i = b[i].toNat / 128 := by
  simp [carryOut, h]

theorem carryOut_end (b : Block) : carryOut b 16 = 0 := by simp [carryOut]

/-- Shifting a byte moves its top bit out. -/
theorem shiftLeft_one_toNat (x : Byte) : (x <<< 1).toNat + 256 * (x.toNat / 128) = 2 * x.toNat := by
  rw [BitVec.toNat_shiftLeft, Nat.shiftLeft_eq]
  omega

/-- The next byte's top bit moves into the place that became free. -/
theorem shiftLeft_one_or_toNat (x y : Byte) : (x <<< 1 ||| y >>> 7).toNat = (x <<< 1).toNat + y.toNat / 128 := by
  have hcarry : y.toNat / 128 < 2 ^ 1 := by omega
  have heven : (x <<< 1).toNat = 2 ^ 1 * (x.toNat % 128) := by
    rw [BitVec.toNat_shiftLeft, Nat.shiftLeft_eq]
    omega
  rw [BitVec.toNat_or, BitVec.toNat_ushiftRight, Nat.shiftRight_eq_div_pow, heven]
  exact (Nat.two_pow_add_eq_or_of_lt hcarry _).symm

/-- The bytes of the shift are a carry chain. -/
theorem shiftLeftOneBit_carry (b : Block) (i : Nat) (hi : i < 16) :
    (shiftLeftOneBit b)[i].toNat + 256 * carryOut b i = 2 * b[i].toNat + carryOut b (i + 1) := by
  have hout := shiftLeft_one_toNat b[i]
  rw [carryOut_of_lt b hi]
  obtain h | rfl : i < 15 ∨ i = 15 := by omega
  · rw [shiftLeftOneBit_getElem b h, shiftLeft_one_or_toNat, carryOut_of_lt b (show i + 1 < 16 by omega)]
    omega
  · rw [shiftLeftOneBit_getElem_last, carryOut_end]
    omega

/-- The shift doubles the integer; the top bit is lost. -/
theorem integer_shiftLeftOneBit (b : Block) :
    integer (shiftLeftOneBit b) + 2 ^ 128 * (b[0].toNat / 128) = 2 * integer b := by
  have hpow : 256 ^ 16 = 2 ^ 128 := by decide
  rw [← hpow, ← carryOut_of_lt b (by decide), integer_carry_chain (shiftLeftOneBit_carry b), carryOut_end, Nat.add_zero]

/-- R11: a block denotes a number of 128 bits. -/
theorem integer_block_lt (b : Block) : integer b < 2 ^ 128 := integer_lt b

theorem integer_shiftLeftOneBit_mod (b : Block) : integer (shiftLeftOneBit b) = (2 * integer b) % 2 ^ 128 := by
  have hcarry := integer_shiftLeftOneBit b
  have hlt := integer_block_lt (shiftLeftOneBit b)
  omega

/-- The top bit of byte 0 is the top bit of the integer. -/
theorem topBit_iff (b : Block) : b[0].getLsbD 7 = true ↔ 2 ^ 127 ≤ integer b := by
  have hbit : b[0].getLsbD 7 = true ↔ 128 ≤ b[0].toNat := by
    have hmsb := BitVec.msb_eq_decide b[0]
    rw [BitVec.msb_eq_getLsbD_last] at hmsb
    rw [hmsb, decide_eq_true_iff]
  have hcarry := integer_shiftLeftOneBit b
  have hlt := integer_block_lt (shiftLeftOneBit b)
  rw [hbit]
  omega

/-! ### `dbl` (R155) -/

theorem dbl_of_topBit {b : Block} (h : b[0].getLsbD 7 = true) : dbl b = xor16 (shiftLeftOneBit b) Rb := if_pos h

theorem dbl_of_not_topBit {b : Block} (h : b[0].getLsbD 7 = false) : dbl b = shiftLeftOneBit b :=
  if_neg (Bool.eq_false_iff.1 h)

theorem integer_xor16 (a b : Block) : integer (xor16 a b) = integer a ^^^ integer b := integer_xor (xor16_getElem a b)

/-- `Rb` denotes the reduction constant (`42_cmac.md` R170). -/
theorem integer_Rb : integer Rb = 0x87 := by decide

/-! ### `low` (R154) -/

theorem low_getElem (b : Block) {k : Nat} (h : k ≤ 16) (i : Nat) (hi : i < k) :
    (low b k h)[i] = b[16 - k + i] := by
  simp [low]

theorem integer_low (b : Block) {k : Nat} (h : k ≤ 16) : integer (low b k h) = integer b % 2 ^ (8 * k) := by
  have hsplit : integer b = integer (b.take (16 - k)) * 256 ^ k + integer (low b k h) := by
    refine integer_concat (by omega) (fun i => ?_) (fun i => ?_)
    · have hi : i.val < 16 := i.isLt.trans_le (Nat.min_le_right _ _)
      simp [hi, -Vector.take_eq_extract]
    · simp [low_getElem]
  have hpow : 2 ^ (8 * k) = 256 ^ k := pow_mul 2 8 k
  rw [hsplit, hpow, Nat.mul_add_mod', Nat.mod_eq_of_lt (integer_lt _)]

end Sys2Proof.Machine

/-! ### The statements -/

open Sys2Proof Sys2Proof.Machine Sys2Proof.Safety

/-- Settles O17: the bytes by definition, the integer by the carry chain. -/
theorem shiftLeftDoubles : Obligations.ShiftLeftDoubles := by
  intro b
  have hall (x : Byte) : x &&& 0xFF#8 = x := BitVec.and_allOnes
  refine ⟨fun i h => ?_, ?_, integer_shiftLeftOneBit_mod b, ?_⟩
  · rw [hall, shiftLeftOneBit_getElem b h]
  · rw [hall, shiftLeftOneBit_getElem_last]
  · rw [shiftLeftOneBit_getElem_last]
    simp

/-- Settles O18: the top bit is that of the integer, and XOR with `Rb` is XOR with the reduction constant. -/
theorem dblReducesByRb : Obligations.DblReducesByRb := by
  intro b
  refine ⟨dbl_of_topBit, dbl_of_not_topBit, ?_⟩
  by_cases htop : b[0].getLsbD 7 = true
  · rw [if_pos ((topBit_iff b).1 htop), dbl_of_topBit htop, integer_xor16, integer_Rb, integer_shiftLeftOneBit_mod]
  · have hlow := mt (topBit_iff b).2 htop
    rw [if_neg hlow, dbl_of_not_topBit (Bool.eq_false_iff.2 htop), integer_shiftLeftOneBit_mod]
    omega

/-- Settles O21: a block is what stands above its low bytes, then its low bytes, which denote less than 2^(8k). -/
theorem lowIsResidue : Obligations.LowIsResidue :=
  fun b _ h => ⟨fun i => low_getElem b h i.val i.isLt, integer_low b h⟩

/-- Settles O16: every law holds byte by byte. -/
theorem xor16IsBytewise : Obligations.Xor16IsBytewise := by
  refine ⟨fun a b i => xor16_getElem a b i.val i.isLt, fun a => ⟨?_, ?_⟩, fun a b => ?_, fun a b c => ?_⟩
  · ext1 i hi; simp
  · ext1 i hi; simp
  · ext1 i hi; simp [BitVec.xor_comm]
  · ext1 i hi; simp [BitVec.xor_assoc]

/-- Settles O19, one case of the definition for each of the three ranges of the index. -/
theorem padLayout : Obligations.PadLayout := by
  intro last n h i
  refine ⟨fun hi => ?_, fun hi => ?_, fun hi => ?_⟩
  · have hlast : i.val < last.length := hi.trans_le h.2
    simp [pad, hi, hlast]
  · simp [pad, hi]
  · simp [pad, hi.not_gt, hi.ne']

/-- Settles O20: in a block of two fields and in `f5Message` a field stands after all that is to its left. -/
theorem concatenationOrder : Obligations.ConcatenationOrder := by
  constructor
  · intro n m a b h
    have ha (i : Fin n) : (toBlock (a.toList ++ b.toList) h)[i.val]? = some a[i] := by
      rw [toBlock_getElem?]
      simpa using getElem?_field (left := []) (List.prefix_append a.toList b.toList) rfl i
    have hb (i : Fin m) : (toBlock (a.toList ++ b.toList) h)[n + i.val]? = some b[i] := by
      rw [toBlock_getElem?]
      exact getElem?_field (List.prefix_refl _) a.length_toList i
    exact ⟨ha, hb, integer_concat (by simpa using h.symm) ha hb⟩
  · intro counter n1 n2 a1 a2
    -- The message up to and with each field, from the last field to the first.
    have hlen : _ <+: f5Message counter n1 n2 a1 a2 := List.prefix_refl _
    have ha2 := (List.prefix_append _ length256.toList).trans hlen
    have ha1 := (List.prefix_append _ a2.toList).trans ha2
    have hn2 := (List.prefix_append _ a1.toList).trans ha1
    have hn1 := (List.prefix_append _ n2.toList).trans hn2
    have hkey := (List.prefix_append _ n1.toList).trans hn1
    exact ⟨by simp [f5Message], rfl, getElem?_field hkey (by simp), getElem?_field hn1 (by simp),
      getElem?_field hn2 (by simp), getElem?_field ha1 (by simp), getElem?_field ha2 (by simp),
      getElem?_field hlen (by simp)⟩
end

section
/-! PROOFS. CmacEngine (`42_cmac.md`): what the subkey derivation and the chaining loop ask and give, the last block against the
reference's padding by byte index, and the commands `SUBKEYS` and `CMAC`. -/

namespace Sys2Proof.Machine

open Sys2Proof.Safety

/-! ### A run and a command in the terms claims use -/

/-- A run from its first request is decided by its requests, its value and the replies. -/
theorem Prog.run_eq_runOutcome {α : Type} (E : Block → Block → Block) (reply : Nat → Reply) (p : Prog α) :
    p.run E reply 0 = runOutcome reply (p.requests E) (p.value E) := by
  rw [Prog.run_eq]
  simp only [Nat.zero_add]
  rfl

/-- The next state of a command is that of its validation, its requests and its value. -/
theorem exec_agrees_commandOutcome {i : Instr} {s : State} {P : Prop} [Decidable P] {reqs : List Request}
    {out : List Byte} (hvalid : lengthsRight i s ↔ P) (hreqs : (bodyOf i s).requests Config.blockCipher = reqs)
    (hout : (bodyOf i s).value Config.blockCipher = out) :
    ∃ t, exec i s = .next t ∧ agrees t (commandOutcome s P reqs out) := by
  suffices h : exec i s = .next (commandOutcome s P reqs out) from
    ⟨_, h, rfl, rfl, rfl, rfl, rfl, rfl, rfl, rfl, rfl⟩
  by_cases hP : P
  · rw [exec_valid (hvalid.2 hP), settle_run, hreqs, hout, commandOutcome, if_pos hP]
  · rw [exec_invalid (mt hvalid.1 hP), rejectCommand, completeErr_eq_failed, commandOutcome, if_neg hP]
    rfl

/-- A 16-byte operand is the first 16 bytes of its slot (`30_encoding.md` R94). -/
theorem opnd_eq_blockOf (s : State) (n : Fin 8) : s.opnd n 16 (by omega) = blockOf s n := by
  ext1 j hj
  have hslot : j < 32 := by omega
  simp [State.opnd, blockOf, byteOf, hslot]

/-- The message of `CMAC` is the reference's (R175). -/
theorem message_eq_messageOf (s : State) : s.message = messageOf s := rfl

/-! ### The subkeys (R171) -/

@[simp] theorem deriveSubkeys_requests (E : Block → Block → Block) (key : Block) :
    (deriveSubkeys key).requests E = [⟨key, ZERO16⟩] := rfl

@[simp] theorem deriveSubkeys_value (E : Block → Block → Block) (key : Block) :
    (deriveSubkeys key).value E = (subkey1 E key, subkey2 E key) := rfl

/-! ### The blocks of a message (R172 steps 1 and 2) -/

theorem blockCount_eq_blockNumber (len : Nat) : blockCount len = blockNumber len := blockCount_eq_max len

theorem lastComplete_iff (len : Nat) : lastComplete len = true ↔ len ≠ 0 ∧ len % 16 = 0 := by
  simp [lastComplete, Nat.pos_iff_ne_zero]

/-- The last block begins at the last multiple of 16 if it is incomplete, 16 bytes before the end if it is complete. -/
theorem lastBlock_start (len : Nat) :
    if len ≠ 0 ∧ len % 16 = 0 then 16 * (blockNumber len - 1) + 16 = len
    else 16 * (blockNumber len - 1) + len % 16 = len := by
  unfold blockNumber
  split <;> omega

/-- A block that lies inside the message is not padded. -/
theorem messageBlock_eq_paddedBlock {message : List Byte} {i : Nat} (h : 16 * i + 16 ≤ message.length) :
    messageBlock message i = paddedBlock message i := by
  ext1 j hj
  have hin : 16 * i + j < message.length := by omega
  simp [messageBlock, paddedBlock, paddedByte, hin]

/-- Padding the bytes from `16 * i` on gives the reference's block, if fewer than 16 are left. -/
theorem pad_drop_eq_paddedBlock {message : List Byte} {i r : Nat} (hr : 16 * i + r = message.length)
    (h : r ≤ 16 ∧ r ≤ (message.drop (16 * i)).length) :
    pad (message.drop (16 * i)) r h = paddedBlock message i := by
  ext1 j hj
  have hin : 16 * i + j < message.length ↔ j < r := by omega
  have hend : 16 * i + j = message.length ↔ j = r := by omega
  rcases lt_trichotomy j r with hlt | rfl | hgt
  · simp [pad, paddedBlock, paddedByte, hin, hlt]
  · simp [pad, paddedBlock, paddedByte, hr]
  · simp [pad, paddedBlock, paddedByte, hin, hend, hgt.not_gt, hgt.ne']

/-- `M_last` is the reference's last block under the subkey the reference chooses. -/
theorem lastBlock_eq (E : Block → Block → Block) (key : Block) (message : List Byte) :
    lastBlock message (subkey1 E key) (subkey2 E key)
      = xor16 (paddedBlock message (blockNumber message.length - 1)) (finalSubkey E key message) := by
  have hstart := lastBlock_start message.length
  unfold lastBlock finalSubkey lastPartial
  simp only [lastComplete_iff, blockCount_eq_blockNumber]
  split
  case isTrue hcomplete =>
    rw [if_pos hcomplete] at hstart
    rw [messageBlock_eq_paddedBlock hstart.le]
  case isFalse hpartial =>
    rw [if_neg hpartial] at hstart
    rw [pad_drop_eq_paddedBlock hstart]

/-! ### The chaining loop (R172 step 3) -/

/-- From the chaining value after `i` blocks, the loop over the next `count` blocks gives the one after `i + count`. -/
theorem chain_value (E : Block → Block → Block) (key : Block) (message : List Byte) (i count : Nat) :
    (chain key ((List.range' i count).map (paddedBlock message)) (chainValue E key message i)).value E
      = chainValue E key message (i + count) := by
  induction count generalizing i with
  | zero => rfl
  | succ count ih =>
    simp only [List.range'_succ, List.map_cons, chain, Prog.value_bind, Prog.value_cipher]
    exact (ih (i + 1)).trans (congrArg _ (Nat.succ_add_eq_add_succ i count))

/-- The loop asks for each block in turn, under the chaining value before it. -/
theorem chain_requests (E : Block → Block → Block) (key : Block) (message : List Byte) (i count : Nat) :
    (chain key ((List.range' i count).map (paddedBlock message)) (chainValue E key message i)).requests E
      = (List.range' i count).map fun j =>
          ⟨key, xor16 (chainValue E key message j) (paddedBlock message j)⟩ := by
  induction count generalizing i with
  | zero => rfl
  | succ count ih =>
    simp only [List.range'_succ, List.map_cons, chain, Prog.requests_bind, Prog.requests_cipher, Prog.value_cipher]
    exact congrArg _ (ih (i + 1))

/-- Every block but the last lies inside the message. -/
theorem fullBlocks_eq (message : List Byte) :
    (List.range (blockCount message.length - 1)).map (messageBlock message)
      = (List.range (blockNumber message.length - 1)).map (paddedBlock message) := by
  rw [blockCount_eq_blockNumber]
  refine List.map_congr_left fun i hi => messageBlock_eq_paddedBlock ?_
  have hlt : i < blockNumber message.length - 1 := by simpa using hi
  unfold blockNumber at hlt
  omega

/-! ### `cmac` (R172) -/

@[simp] theorem cmac_value (E : Block → Block → Block) (key : Block) (message : List Byte) :
    (cmac key message).value E = cmacTag E key message := by
  have hchain := chain_value E key message 0 (blockNumber message.length - 1)
  rw [chainValue, Nat.zero_add, ← List.range_eq_range'] at hchain
  simp [cmac, fullBlocks_eq, hchain, lastBlock_eq, cmacTag, finalBlock]

@[simp] theorem cmac_requests (E : Block → Block → Block) (key : Block) (message : List Byte) :
    (cmac key message).requests E = cmacRequests E key message := by
  have hvalue := chain_value E key message 0 (blockNumber message.length - 1)
  have hreqs := chain_requests E key message 0 (blockNumber message.length - 1)
  rw [chainValue, Nat.zero_add, ← List.range_eq_range'] at hvalue
  rw [chainValue, ← List.range_eq_range'] at hreqs
  simp [cmac, fullBlocks_eq, hvalue, hreqs, lastBlock_eq, cmacRequests, finalBlock]

end Sys2Proof.Machine

/-! ### The statements -/

open Sys2Proof Sys2Proof.Machine Sys2Proof.Safety

/-- Settles O23: `cmac` has the reference's requests and tag, and the replies decide how far a run comes. -/
theorem cmacFunction : Obligations.CmacFunction := by
  intro E reply key message
  rw [Prog.run_eq_runOutcome, cmac_requests, cmac_value]

/-- Settles O22: the one request and the two subkeys from its reply. -/
theorem deriveSubkeysFunction : Obligations.DeriveSubkeysFunction :=
  fun E reply key => Prog.run_eq_runOutcome E reply (deriveSubkeys key)

/-- Settles O24: the pseudocode of `SUBKEYS` asks and gives what `deriveSubkeys` does, on slot 0. -/
theorem subkeysCommand : Obligations.SubkeysCommand := fun s =>
  exec_agrees_commandOutcome Iff.rfl (by simp [bodyOf, progSubkeys, opnd_eq_blockOf])
    (by simp [bodyOf, progSubkeys, opnd_eq_blockOf])

/-- Settles O25: the pseudocode of `CMAC` asks and gives what `cmac` does, on slot 0 and the message buffer. -/
theorem cmacCommand : Obligations.CmacCommand := fun s =>
  exec_agrees_commandOutcome Iff.rfl (by simp [bodyOf, progCmac, opnd_eq_blockOf, message_eq_messageOf])
    (by simp [bodyOf, progCmac, opnd_eq_blockOf, message_eq_messageOf])
end

section
/-! PROOFS. The SMP confirmation and address-hash commands (`43_smp_check.md`): operands and their concatenations by byte index,
the pseudocode in those terms, and the commands `AH`, `C1`, `S1` and `G2`. -/

namespace Sys2Proof.Machine

open Sys2Proof.Safety

/-! ### Operands by byte index (`30_encoding.md` R94) -/

@[simp] theorem bytesOf_length (s : State) (n : Fin 8) (len : Nat) : (bytesOf s n len).length = len := by simp [bytesOf]

@[simp] theorem bytesOf_getElem (s : State) (n : Fin 8) (len i : Nat) (h : i < (bytesOf s n len).length) :
    (bytesOf s n len)[i] = byteOf s n i := by simp [bytesOf]

@[simp] theorem blockOf_getElem (s : State) (n : Fin 8) (i : Nat) (h : i < 16) : (blockOf s n)[i] = byteOf s n i := by
  simp [blockOf]

/-- A byte of an operand is the byte of its slot. -/
theorem opnd_getElem (s : State) (n : Fin 8) {len : Nat} (hlen : len ≤ 32) {i : Nat} (h : i < len) :
    (s.opnd n len hlen)[i] = byteOf s n i := by
  have hslot : i < 32 := by omega
  simp [State.opnd, byteOf, hslot]

/-- An operand is the first bytes of its slot. -/
theorem opnd_toList (s : State) (n : Fin 8) {len : Nat} (hlen : len ≤ 32) :
    (s.opnd n len hlen).toList = bytesOf s n len :=
  List.ext_getElem (by simp) fun i hi _ => by
    rw [Vector.getElem_toList, opnd_getElem s n hlen (by simpa using hi), bytesOf_getElem]

theorem blockOf_toList (s : State) (n : Fin 8) : (blockOf s n).toList = bytesOf s n 16 := by
  rw [← opnd_eq_blockOf, opnd_toList]

/-- A flag enters `p1` as its bit 0 (R94). -/
theorem flagByte_eq_and (b : Byte) : flagByte b = b &&& 0x01#8 := by
  rw [flagByte, BitVec.and_one_eq_setWidth_ofBool_getLsbD]
  cases b.getLsbD 0 <;> rfl

/-! ### The concatenations, field by field (R191 to R194) -/

/-- The block of `AH` by byte index (R191): 13 zero bytes, then `r`. -/
def ahBlock (s : State) : Block := Vector.ofFn fun j => if j.val < 13 then 0x00 else byteOf s 1 (j.val - 13)

/-- The block of `S1` by byte index (R193): `r1[8..15]`, then `r2[8..15]`. -/
def s1Block (s : State) : Block :=
  Vector.ofFn fun j => if j.val < 8 then byteOf s 1 (8 + j.val) else byteOf s 2 j.val

/-- The message of `G2` by byte index (R194): `u`, `v`, then `y`. -/
def g2Layout (s : State) : List Byte :=
  (List.range 80).map fun i =>
    if i ≤ 31 then byteOf s 0 i else if i ≤ 63 then byteOf s 1 (i - 32) else byteOf s 3 (i - 64)

@[simp] theorem toBlock_getElem (bytes : List Byte) (h : bytes.length = 16) (i : Nat) (hi : i < 16) :
    (toBlock bytes h)[i] = bytes[i] := by simp [toBlock]

theorem toBlock_zeros_r (s : State) (h : ((zeroBytes 13).toList ++ bytesOf s 1 3).length = 16) :
    toBlock ((zeroBytes 13).toList ++ bytesOf s 1 3) h = ahBlock s := by
  ext1 j hj
  simp [ahBlock, List.getElem_append]

/-- `p1` of `C1` (R192): `pres`, `preq`, then the two flags. -/
theorem toBlock_pres_preq_flags (s : State)
    (h : (bytesOf s 3 7 ++ bytesOf s 2 7 ++ [byteOf s 6 0 &&& 0x01#8] ++ [byteOf s 4 0 &&& 0x01#8]).length = 16) :
    toBlock (bytesOf s 3 7 ++ bytesOf s 2 7 ++ [byteOf s 6 0 &&& 0x01#8] ++ [byteOf s 4 0 &&& 0x01#8]) h = c1P1 s := by
  ext1 j hj
  simp only [toBlock_getElem, c1P1, Vector.getElem_ofFn]
  obtain hpres | ⟨hpres, hpreq⟩ | rfl | rfl : j ≤ 6 ∨ (6 < j ∧ j ≤ 13) ∨ j = 14 ∨ j = 15 := by omega
  · simp (disch := omega) [List.getElem_append, if_pos, dif_pos]
  · simp (disch := omega) [List.getElem_append, if_pos, if_neg]
  · simp
  · simp

/-- `p2` of `C1` (R192): four zero bytes, `ia`, then `ra`. -/
theorem toBlock_zeros_ia_ra (s : State) (h : ((zeroBytes 4).toList ++ bytesOf s 5 6 ++ bytesOf s 7 6).length = 16) :
    toBlock ((zeroBytes 4).toList ++ bytesOf s 5 6 ++ bytesOf s 7 6) h = c1P2 s := by
  ext1 j hj
  simp only [toBlock_getElem, c1P2, Vector.getElem_ofFn]
  obtain hzero | ⟨hzero, hia⟩ | hra : j ≤ 3 ∨ (3 < j ∧ j ≤ 9) ∨ 9 < j := by omega
  · simp (disch := omega) [List.getElem_append, if_pos]
  · simp (disch := omega) [List.getElem_append, if_pos, if_neg]
  · simp (disch := omega) [List.getElem_append, if_neg, Nat.sub_sub]

theorem toBlock_lows (s : State)
    (h : ((low (blockOf s 1) 8 (by omega)).toList ++ (low (blockOf s 2) 8 (by omega)).toList).length = 16) :
    toBlock ((low (blockOf s 1) 8 (by omega)).toList ++ (low (blockOf s 2) 8 (by omega)).toList) h
      = s1Block s := by
  ext1 j hj
  simp only [toBlock_getElem, s1Block, Vector.getElem_ofFn]
  rcases Nat.lt_or_ge j 8 with hr1 | hr2
  · simp [low_getElem, hr1]
  · simp [List.getElem_append, low_getElem, hr2.not_gt, Nat.add_sub_cancel' hr2]

theorem u_append_v_append_y (s : State) : bytesOf s 0 32 ++ bytesOf s 1 32 ++ bytesOf s 3 16 = g2Layout s := by
  unfold g2Layout
  refine List.ext_getElem (by simp) fun i _ _ => ?_
  obtain hu | ⟨hu, hv⟩ | hy : i ≤ 31 ∨ (31 < i ∧ i ≤ 63) ∨ 63 < i := by omega
  · simp (disch := omega) [List.getElem_append, if_pos]
  · simp (disch := omega) [List.getElem_append, if_pos, if_neg]
  · simp (disch := omega) [List.getElem_append, if_neg, Nat.sub_sub]

/-! ### The pseudocode (R191 to R194) -/

theorem progAh_eq (s : State) :
    progAh s = (Prog.cipher (blockOf s 0) (ahBlock s)).bind fun e => .done [e[13], e[14], e[15]] := by
  simp only [progAh, opnd_eq_blockOf, opnd_toList, toBlock_zeros_r]
  rfl

theorem progC1_eq (s : State) :
    progC1 s = (Prog.cipher (blockOf s 0) (xor16 (blockOf s 1) (c1P1 s))).bind fun t1 =>
      (Prog.cipher (blockOf s 0) (xor16 t1 (c1P2 s))).bind fun out => .done out.toList := by
  simp only [progC1, opnd_eq_blockOf, opnd_toList, opnd_getElem, flagByte_eq_and, toBlock_pres_preq_flags,
    toBlock_zeros_ia_ra]

theorem progS1_eq (s : State) :
    progS1 s = (Prog.cipher (blockOf s 0) (s1Block s)).bind fun out => .done out.toList := by
  simp only [progS1, opnd_eq_blockOf, toBlock_lows]

theorem progG2_eq (s : State) :
    progG2 s = (cmac (blockOf s 2) (g2Layout s)).bind fun tag => .done [tag[12], tag[13], tag[14], tag[15]] := by
  simp only [progG2, opnd_eq_blockOf, opnd_toList, blockOf_toList, u_append_v_append_y]
  rfl

end Sys2Proof.Machine

/-! ### The statements -/

open Sys2Proof Sys2Proof.Machine Sys2Proof.Safety

/-- Settles O26: one request, its block by byte index, and the last three bytes of its reply. -/
theorem ahCommand : Obligations.AhCommand := fun s =>
  exec_agrees_commandOutcome Iff.rfl (by simp [bodyOf, progAh_eq, ahBlock]) (by simp [bodyOf, progAh_eq, ahBlock])

/-- Settles O27: two requests, the second on the reply to the first. -/
theorem c1Command : Obligations.C1Command := fun s =>
  exec_agrees_commandOutcome Iff.rfl (by simp [bodyOf, progC1_eq]) (by simp [bodyOf, progC1_eq])

/-- Settles O28: one request, its block the low halves of the nonces, and its reply. -/
theorem s1Command : Obligations.S1Command := fun s =>
  exec_agrees_commandOutcome Iff.rfl (by simp [bodyOf, progS1_eq, s1Block]) (by simp [bodyOf, progS1_eq, s1Block])

/-- Settles O29: the requests and the tag of `cmac` on the message by byte index, and the last four bytes of the tag. -/
theorem g2Command : Obligations.G2Command := fun s =>
  exec_agrees_commandOutcome Iff.rfl (by simp [bodyOf, progG2_eq, g2Layout]) (by simp [bodyOf, progG2_eq, g2Layout])
end

section
/-! PROOFS. The SMP key-derivation commands (`44_smp_deriv.md`): a message laid out by byte index as the concatenation of its
fields, the pseudocode in those terms, and the commands `F4`, `F5`, `F6` and `H6`. -/

namespace Sys2Proof.Machine

open Sys2Proof.Safety

/-! ### A layout by byte index is the concatenation of its fields -/

/-- What the first branch of a layout gives stands before what the other branches give. -/
theorem map_range'_ite_le (first rest : Nat → Byte) {start last count : Nat} (hstart : start ≤ last + 1)
    (hlast : last + 1 ≤ start + count) :
    ((List.range' start count).map fun i => if i ≤ last then first i else rest i)
      = (List.range' start (last + 1 - start)).map first
        ++ (List.range' (last + 1) (start + count - (last + 1))).map rest := by
  obtain ⟨len, hlen⟩ := Nat.exists_eq_add_of_le hstart
  obtain ⟨more, hmore⟩ := Nat.exists_eq_add_of_le hlast
  obtain rfl : count = len + more := by omega
  rw [hmore, hlen, Nat.add_sub_cancel_left, Nat.add_sub_cancel_left, ← List.range'_append_1, List.map_append]
  congr 1
  · exact List.map_congr_left fun i hi => if_pos (by rw [List.mem_range'_1] at hi; omega)
  · exact List.map_congr_left fun i hi => if_neg (by rw [List.mem_range'_1] at hi; omega)

/-- A branch that counts from its first index gives a field. -/
theorem map_range'_byteOf (s : State) (n : Fin 8) (start len : Nat) :
    ((List.range' start len).map fun i => byteOf s n (i - start)) = bytesOf s n len := by
  rw [List.range'_eq_map_range, List.map_map]
  exact List.map_congr_left fun i _ => congrArg (byteOf s n) (Nat.add_sub_cancel_left start i)

/-- The branch that begins the message gives a field. -/
theorem map_range'_zero_byteOf (s : State) (n : Fin 8) (len : Nat) :
    (List.range' 0 len).map (byteOf s n) = bytesOf s n len := map_range'_byteOf s n 0 len

/-! ### The messages of `F4`, `F5` and `F6` -/

/-- The message of `F4` by byte index (R220): `u`, `v`, then the byte `z`. -/
def f4Layout (s : State) : List Byte :=
  (List.range 65).map fun i =>
    if i ≤ 31 then byteOf s 0 i else if i ≤ 63 then byteOf s 1 (i - 32) else byteOf s 3 0

/-- `u || v || z` has the layout of R220. -/
theorem u_v_z_eq_f4Layout (s : State) : bytesOf s 0 32 ++ bytesOf s 1 32 ++ bytesOf s 3 1 = f4Layout s := by
  have hz : ((List.range' 64 1).map fun _ => byteOf s 3 0) = bytesOf s 3 1 := rfl
  rw [f4Layout, List.range_eq_range']
  simp (disch := omega) only [map_range'_ite_le, map_range'_zero_byteOf, map_range'_byteOf, hz, List.append_assoc,
    Nat.reduceAdd, Nat.reduceSub]

/-- `n1 || n2 || r || io_cap || a1 || a2` has the layout of R223. -/
theorem n1_n2_r_ioCap_a1_a2_eq_f6Layout (s : State) :
    bytesOf s 1 16 ++ bytesOf s 2 16 ++ bytesOf s 3 16 ++ bytesOf s 4 3 ++ bytesOf s 5 7 ++ bytesOf s 6 7
      = f6Layout s := by
  rw [f6Layout, List.range_eq_range']
  simp (disch := omega) only [map_range'_ite_le, map_range'_zero_byteOf, map_range'_byteOf, List.append_assoc,
    Nat.reduceAdd, Nat.reduceSub]

/-- `m_c` has the layout of R222: the counter, "btle", the nonces, the addresses, then `LENGTH_256`. -/
theorem f5Message_eq_f5Layout (s : State) (counter : Byte) :
    f5Message counter (blockOf s 1) (blockOf s 2) (s.opnd 3 7 (by omega)) (s.opnd 4 7 (by omega))
      = f5Layout s counter := by
  have hcounter : ((List.range' 0 1).map fun _ => counter) = [counter] := rfl
  have hkeyId : ((List.range' 1 4).map fun i => ([0x62, 0x74, 0x6c, 0x65] : List Byte).getD (i - 1) 0x00)
      = keyIdBtle.toList := rfl
  have hlength : ((List.range' 51 2).map fun i => ([0x01, 0x00] : List Byte).getD (i - 51) 0x00)
      = length256.toList := rfl
  simp only [f5Layout, f5Message, opnd_toList, blockOf_toList, List.range_eq_range', ← Nat.le_zero]
  simp (disch := omega) only [map_range'_ite_le, map_range'_byteOf, hcounter, hkeyId, hlength, List.append_assoc,
    Nat.reduceAdd, Nat.reduceSub]

/-! ### The pseudocode (R220 to R224) -/

theorem progF4_eq (s : State) : progF4 s = (cmac (blockOf s 2) (f4Layout s)).bind fun tag => .done tag.toList := by
  simp only [progF4, opnd_eq_blockOf, opnd_toList, u_v_z_eq_f4Layout]

theorem progF5_eq (salt : Block) (s : State) :
    progF5 salt s = (cmac salt (bytesOf s 0 32)).bind fun t =>
      (cmac t (f5Layout s 0x00)).bind fun macKey =>
        (cmac t (f5Layout s 0x01)).bind fun ltk => .done (macKey.toList ++ ltk.toList) := by
  simp only [progF5, opnd_eq_blockOf, opnd_toList, f5Message_eq_f5Layout]

theorem progF6_eq (s : State) : progF6 s = (cmac (blockOf s 0) (f6Layout s)).bind fun tag => .done tag.toList := by
  simp only [progF6, opnd_eq_blockOf, opnd_toList, blockOf_toList, n1_n2_r_ioCap_a1_a2_eq_f6Layout]

theorem progH6_eq (s : State) : progH6 s = (cmac (blockOf s 0) (bytesOf s 1 4)).bind fun tag => .done tag.toList := by
  simp only [progH6, opnd_eq_blockOf, opnd_toList]

/-- A command whose pseudocode is one `cmac` asks what `cmac` asks and delivers the tag. -/
theorem exec_agrees_of_cmac {i : Instr} {s : State} {P : Prop} [Decidable P] {key : Block} {message : List Byte}
    (hvalid : lengthsRight i s ↔ P) (hbody : bodyOf i s = (cmac key message).bind fun tag => .done tag.toList) :
    ∃ t, exec i s = .next t ∧ agrees t (commandOutcome s P (cmacRequests Config.blockCipher key message)
      (cmacTag Config.blockCipher key message).toList) :=
  exec_agrees_commandOutcome hvalid (by simp [hbody]) (by simp [hbody])

end Sys2Proof.Machine

/-! ### The statements -/

open Sys2Proof Sys2Proof.Machine Sys2Proof.Safety

/-- Settles O30: the pseudocode is one `cmac` under `x` of the message by byte index. -/
theorem f4Command : Obligations.F4Command := fun s => exec_agrees_of_cmac Iff.rfl (progF4_eq s)

/-- Settles O31: three times `cmac`, the second and third under the first one's tag. -/
theorem f5Command : Obligations.F5Command := fun s =>
  exec_agrees_commandOutcome Iff.rfl (by simp [bodyOf, progF5_eq]) (by simp [bodyOf, progF5_eq])

/-- Settles O32: the pseudocode is one `cmac` under `w` of the message by byte index. -/
theorem f6Command : Obligations.F6Command := fun s => exec_agrees_of_cmac Iff.rfl (progF6_eq s)

/-- Settles O33: the pseudocode is one `cmac` under the 16-byte `w` of `keyId`. -/
theorem h6Command : Obligations.H6Command := fun s => exec_agrees_of_cmac Iff.rfl (progH6_eq s)
end

section
/-! PROOFS. The exceptions (`60_exceptions.md`): which error a command ends with, and how phase ERROR is left. -/

namespace Sys2Proof.Machine

open Sys2Proof.Safety

/-! ### The three errors -/

/-- A command with a wrong length ends in `LengthError` without a request (R251). -/
theorem exec_wrongLengths {i : Instr} {s : State} (hl : ¬ lengthsRight i s) : exec i s = .next (failed s [] 0x01) := by
  rw [exec_invalid hl, rejectCommand, completeErr_eq_failed]
  rfl

/-- A command whose first request not answered `ok` is answered `fail` ends in `EncryptionFailure`, that request the last one
issued (R252). -/
theorem exec_fails {i : Instr} {s : State} {k : Nat} (hl : lengthsRight i s) (hk : k < requestCount i s)
    (hok : ∀ j < k, s.reply j = .ok) (hfail : s.reply k = .fail) :
    exec i s = .next (failed s (((bodyOf i s).requests Config.blockCipher).take (k + 1)) 0x02) := by
  have hfirst : firstNotOk s.reply ((bodyOf i s).requests Config.blockCipher).length = some k := by
    rw [bodyOf_requests_length]
    exact firstNotOk_eq_some.2 ⟨hk, by simp [hfail], hok⟩
  rw [exec_valid hl, settle_run, answeredOutcome, hfirst]
  simp [hfail]

/-- On the engine's turn in BUSY a reserved opcode ends in `IllegalCommand` without a request (R253). -/
theorem engineTurn_reserved {s : State} {r : DecodeReject} (hb : s.phase = .busy) (hd : decodeByte s.op = .error r) :
    engineTurn s = .next (failed s [] 0x03) := by
  rw [engineTurn, if_pos hb, hd, rejectCommand, completeErr_eq_failed]
  rfl

/-- The error code after a command that passes validation: `EncryptionFailure` with a failing request to show for it, none, or
the one before if the command waits. -/
theorem exec_errcode_cases {i : Instr} {s t : State} (hl : lengthsRight i s) (h : exec i s = .next t) :
    (t.errcode = 0x02 ∧ ∃ k < requestCount i s, (∀ j < k, s.reply j = .ok) ∧ s.reply k = .fail)
      ∨ t.errcode = 0x00 ∨ t.errcode = s.errcode := by
  rcases exec_cases h with ⟨hwrong, -⟩ | ⟨-, -, rfl⟩ | ⟨-, k, hk, hok, hfail, rfl⟩ | ⟨-, k, -, -, -, rfl⟩
  · exact absurd hl hwrong
  · exact .inr (.inl rfl)
  · exact .inl ⟨rfl, k, bodyOf_requests_length _ i s ▸ hk, hok, hfail⟩
  · exact .inr (.inr rfl)

/-- A command that passes validation comes to `EncryptionFailure` exactly if its first request not answered `ok` is answered
`fail` (R252). -/
theorem exec_encryptionFailure_iff {i : Instr} {s t : State} (hcode : s.errcode ≠ 0x02) (hl : lengthsRight i s)
    (h : exec i s = .next t) :
    t.errcode = 0x02 ↔ ∃ k < requestCount i s, (∀ j < k, s.reply j = .ok) ∧ s.reply k = .fail := by
  constructor
  · intro he
    rcases exec_errcode_cases hl h with ⟨-, hfails⟩ | h0 | hsame
    · exact hfails
    · simp [h0] at he
    · exact absurd (hsame ▸ he) hcode
  · rintro ⟨k, hk, hok, hfail⟩
    rw [exec_fails hl hk hok hfail] at h
    cases h
    rfl

/-- In BUSY no error is recorded (`10_state.md` R27). -/
theorem errcode_of_busy {s : State} (hs : Inv s) (hb : s.phase = .busy) : s.errcode = 0x00 := by
  by_contra he
  have herr := hs.status.errorIff.2 he
  rw [hb] at herr
  cases herr

/-! ### A step outside BUSY -/

/-- Outside BUSY the host's turn keeps the outcome of the last command, unless it is a write to `CMD`, the acceptance (R257). -/
theorem hostTurn_not_busy_cases {s t : State} (hb : s.phase ≠ .busy) (h : hostTurn s = .next t) :
    sameOutcome t s
      ∨ ∃ v rest, s.script = .wr 0x0000 v :: rest ∧ t = accept v { s with script := rest } := by
  rcases hostTurn_cases h with rfl | ⟨off, v, rest, hscript, rfl⟩ | ⟨off, script, rfl⟩
  · exact .inl ⟨rfl, rfl, rfl, rfl⟩
  · rcases regWrite_cases { s with script := rest } off v with ⟨-, hc, hw⟩ | ⟨slots, slen, msg, msgLen, hw⟩
    · obtain rfl := eq_zero_of_regAt_cmd hc
      exact .inr ⟨v, rest, hscript, hw⟩
    · rw [hw]
      exact .inl ⟨rfl, rfl, rfl, rfl⟩
  · exact .inl ⟨rfl, rfl, rfl, rfl⟩

/-- Everything a step outside BUSY can do to the outcome of the last command: keep it, or clear it by an acceptance or by a
reset. -/
theorem step_not_busy_cases {s t : State} (hb : s.phase ≠ .busy) (h : step s = .next t) :
    sameOutcome t s
      ∨ (nextTurn s = .host
          ∧ ∃ v rest, s.script = .wr 0x0000 v :: rest ∧ t = accept v { turnTaken s with script := rest })
      ∨ (nextTurn s = .reset ∧ t = resetEvent (turnTaken s)) := by
  rcases step_cases h with ⟨hn, hh⟩ | ⟨-, he⟩ | ⟨hn, ht⟩ | ⟨-, rfl⟩
  · rcases hostTurn_not_busy_cases (s := turnTaken s) hb hh with hsame | haccept
    · exact .inl hsame
    · exact .inr (.inl ⟨hn, haccept⟩)
  · rw [engineTurn_idle (s := turnTaken s) hb] at he
    cases he
    exact .inl ⟨rfl, rfl, rfl, rfl⟩
  · exact .inr (.inr ⟨hn, ht⟩)
  · exact .inl ⟨rfl, rfl, rfl, rfl⟩

end Sys2Proof.Machine

/-! ### The statements -/

open Sys2Proof Sys2Proof.Machine Sys2Proof.Safety

/-- Settles O35: a wrong length ends in `LengthError` at once; with the lengths right no case records that code, and one that
keeps the code keeps another. -/
theorem lengthErrorExactly : Obligations.LengthErrorExactly := by
  intro i s t hcode h
  by_cases hl : lengthsRight i s
  · have hne : t.errcode ≠ 0x01 := by
      rcases exec_errcode_cases hl h with ⟨he, -⟩ | he | he
      · simp [he]
      · simp [he]
      · exact he ▸ hcode
    refine ⟨iff_of_false hne (not_not_intro hl), fun he => absurd he hne, fun h0 => ?_⟩
    rw [exec_unloaded i h0] at h
    cases h
    rfl
  · rw [exec_wrongLengths hl] at h
    cases h
    exact ⟨iff_of_true rfl hl, fun _ => ⟨rfl, rfl⟩, fun _ => rfl⟩

/-- Settles O36: of the command's own requests, as many as R289 says, the first `k + 1` are issued. -/
theorem anyRequestCanFail : Obligations.AnyRequestCanFail := by
  intro i s k hl hk hok hfail
  have hcount : k + 1 ≤ ((bodyOf i s).requests Config.blockCipher).length := by rwa [bodyOf_requests_length]
  exact ⟨_, List.length_take_of_le hcount, exec_fails hl hk hok hfail⟩

/-- Settles O43: the engine's turn rejects the opcode, with no look at the operands and no reply drawn. -/
theorem reservedOpcodeFails : Obligations.ReservedOpcodeFails := by
  intro s b hb hn hd
  refine ⟨failed (turnTaken s) [] 0x03, ?_, ⟨rfl, rfl, rfl, rfl, rfl, rfl, rfl, rfl, rfl⟩, ?_⟩
  · rw [step_engine hn, engineTurn_reserved (s := turnTaken s) hb hd]
  · simp [failed, ended, turnTaken]

/-- Settles O44: the opcode decides first, then the lengths, then the replies; a command that waits keeps the code of BUSY,
which is none. -/
theorem errorPriority : Obligations.ErrorPriority := by
  intro s t hb hs h
  refine ⟨fun hn => ⟨?_, fun i hd hl => ?_, fun i hd hl => ?_⟩, fun hn => ?_⟩
  · rintro ⟨r, hd⟩
    rw [step_engine hn, engineTurn_reserved (s := turnTaken s) hb hd] at h
    cases h
    rfl
  · rw [stepRunsLatchedCommand.1 s i hb hn hd, exec_wrongLengths (s := turnTaken s) hl] at h
    cases h
    rfl
  · rw [stepRunsLatchedCommand.1 s i hb hn hd] at h
    have hnone := errcode_of_busy hs hb
    have hcode : s.errcode ≠ 0x02 := by simp [hnone]
    refine ⟨exec_encryptionFailure_iff (s := turnTaken s) hcode hl h, fun hne => ?_⟩
    rcases exec_errcode_cases (s := turnTaken s) hl h with ⟨he, -⟩ | h0 | hsame
    · exact absurd he hne
    · exact h0
    · exact hsame.trans hnone
  · rw [step, hn] at h
    cases h
    exact ⟨rfl, rfl⟩

/-- Settles O50: what a step outside BUSY can do, read in phase ERROR. -/
theorem errorLeftByAcceptanceOrReset : Obligations.ErrorLeftByAcceptanceOrReset := by
  intro s t hphase h
  have hb : s.phase ≠ .busy := by simp [hphase]
  rcases step_not_busy_cases hb h with ⟨hsame, herr, -⟩ | ⟨hn, v, rest, hscript, rfl⟩ | ⟨hn, rfl⟩
  · exact .inl ⟨hsame.trans hphase, herr⟩
  · exact .inr (.inl ⟨hn, ⟨v, rest, hscript, rfl⟩, rfl, rfl⟩)
  · exact .inr (.inr ⟨hn, rfl, rfl⟩)
end

section
/-! PROOFS. Reset and hazards (`70_reset_and_hazards.md`): the keys of a command's requests, and what the host, the engine and a
reset can do to a command and to its outcome. -/

namespace Sys2Proof.Machine

open Sys2Proof.Safety

/-! ### The keys of a command's requests (R289) -/

/-- `cmac` makes all its requests under its one key (`42_cmac.md` R172). -/
theorem cmacRequests_keys (E : Block → Block → Block) (key : Block) (message : List Byte) :
    (cmacRequests E key message).map (·.key) = List.replicate (blockNumber message.length + 1) key := by
  have hpos : 1 ≤ blockNumber message.length := Nat.le_max_left ..
  simp [cmacRequests, Function.comp_def, ← List.replicate_succ, ← List.replicate_succ', Nat.sub_add_cancel hpos]

/-- Every command makes its requests under the keys R289 gives it. -/
theorem bodyOf_requests_keys (i : Instr) (s : State) :
    ((bodyOf i s).requests Config.blockCipher).map (·.key) = requestKeys i s := by
  cases i with
  | subkeys => simp [bodyOf, progSubkeys, opnd_eq_blockOf, requestKeys, requestCount, keyOperand]
  | cmac =>
    simp [bodyOf, progCmac, opnd_eq_blockOf, cmacRequests_keys, State.message, blockNumber, requestKeys, requestCount,
      keyOperand]
  | ah | c1 | s1 =>
    simp [bodyOf, progAh_eq, progC1_eq, progS1_eq, requestKeys, requestCount, keyOperand]
  | g2 | f4 | f6 | h6 =>
    simp [bodyOf, progG2_eq, progF4_eq, progF6_eq, progH6_eq, cmacRequests_keys, g2Layout, f4Layout, f6Layout,
      blockNumber, requestKeys, requestCount, keyOperand]
  | f5 => simp [bodyOf, progF5_eq, cmacRequests_keys, f5Layout, blockNumber, requestKeys]

/-! ### Turns of the host and of reset -/

/-- A step on the host's turn. -/
theorem step_host {s : State} (hn : nextTurn s = .host) : step s = hostTurn (turnTaken s) := by
  rw [step, hn, takeTurn]

/-- A step on a reset's turn (R280). -/
theorem step_reset {s : State} (hn : nextTurn s = .reset) : step s = .next (resetEvent (turnTaken s)) := by
  rw [step, hn, takeTurn]

end Sys2Proof.Machine

/-! ### The statements -/

open Sys2Proof Sys2Proof.Machine Sys2Proof.Safety

/-- Settles O38: a command issues none of its own requests, all of them, or the first `k + 1`. -/
theorem requestTable : Obligations.RequestTable := by
  intro i s t h
  have hcount := bodyOf_requests_length Config.blockCipher i s
  refine ⟨fun hl => ?_, fun hl hok => ?_, fun k hk hl hok hfail => ?_⟩
  · rw [exec_wrongLengths hl] at h
    cases h
    rfl
  · rw [exec_delivers hl (hcount ▸ hok)] at h
    cases h
    exact ⟨hcount, bodyOf_requests_keys i s⟩
  · rw [exec_fails hl hk hok hfail] at h
    cases h
    refine ⟨List.length_take_of_le (hcount ▸ hk), ?_⟩
    rw [← bodyOf_requests_keys, ← List.map_take]
    rfl

/-- Settles O49: what a step outside BUSY can do. -/
theorem outcomePersists : Obligations.OutcomePersists := fun _ _ => step_not_busy_cases

/-- Settles O55: a reset leaves IDLE, in which the engine does nothing; a step from BUSY completes or resets, one from
elsewhere keeps the phase, accepts or resets; and the engine's turn only waits for a request without an answer. -/
theorem resetAbandonsCommand : Obligations.ResetAbandonsCommand := by
  refine ⟨fun s hn => ?_, fun s t h hidle => ?_, fun s t i k hb hd hl hk hok hsilent h ht => ?_⟩
  · exact ⟨resetEvent (turnTaken s), step_reset hn, ⟨rfl, rfl, rfl, rfl, rfl, rfl, rfl, rfl, rfl⟩, rfl,
      ⟨rfl, rfl, rfl, rfl, rfl⟩, engineTurn_idle Phase.noConfusion, rfl⟩
  · by_cases hb : s.phase = .busy
    · rcases onlyCompletionOrResetEndsBusy s t hb h (by simp [hidle]) with ⟨-, hend⟩ | ⟨hn, -⟩
      · simp [hidle] at hend
      · exact .inr hn
    · rcases step_not_busy_cases hb h with ⟨hsame, -⟩ | ⟨-, v, rest, -, rfl⟩ | ⟨hn, -⟩
      · exact .inl (hsame.symm.trans hidle)
      · cases hidle
      · exact .inr hn
  · rcases onlyCompletionOrResetEndsBusy s t hb h ht with ⟨hn, -⟩ | ⟨hn, -⟩
    · rw [stepRunsLatchedCommand.1 s i hb hn hd, exec_waits (s := turnTaken s) hl hk hok hsilent] at h
      cases h
      exact absurd hb ht
    · exact hn

/-- Settles O12: the host's turn is the write, and a write in BUSY is none. -/
theorem writesWhileBusyLost : Obligations.WritesWhileBusyLost := by
  intro s off v rest hb hn hscript
  rw [step_host hn, hostTurn_wr (s := turnTaken s) hscript, regWrite_busy (by exact hb)]
end
